-- ==== Sys2Proof/Word.lean ====
section
/-! DEFINITION. The two word types of the machine: 8-bit registers and memory bytes, 16-bit PC, I, return addresses and
instruction words (spec/10_state.md R10, R12, R13; spec/30_encoding.md R60). Every value is unsigned (spec/00_scope.md R6). -/

namespace Sys2Proof

/-- The content of a general register, a timer or a memory cell. -/
abbrev Byte := BitVec 8

/-- The content of PC, I or a stack entry, and an instruction word. -/
abbrev Word := BitVec 16

end Sys2Proof
end

