-- ==== Sys2Proof/Config.lean ====
section
/-! DEFINITION. What is fixed for the life of one machine (spec/00_scope.md R4, R5), and the free values the spec leaves open:
the random draw (spec/10_state.md R22) and the choice among several keys (spec/45_keypad_timers.md R152 (b)). -/

namespace Sys2Proof

/-- The parameters and quirk inputs of spec/00_scope.md R4 and R5, constant for the life of the machine.
The values of this hardware are `Sys2Proof.Machine.defaultConfig`. -/
structure Config where
  /-- `Q_JUMP_VX`: jump-with-offset adds V[x] and not V0 (R107). -/
  qJumpVx : Bool
  /-- `Q_SHIFT_VY`: shifts take V[y] and not V[x] as their operand (R118, R120). -/
  qShiftVy : Bool
  /-- `Q_INDEX_OVF`: add-to-index writes VF and wraps I at 12 bits (R131). -/
  qIndexOvf : Bool
  /-- `FONT_BASE`: the address of the glyph of digit 0 (R4, R160). -/
  fontBase : Nat
  /-- `FONT_GLYPHS`: sixteen glyphs of five bytes (R4, R41). -/
  fontGlyphs : Vector Byte 80
  /-- `STACK_DEPTH`: how many return addresses the call stack holds (R4, R14). -/
  stackDepth : Nat
deriving DecidableEq, Repr

/-- FREE VALUE, log entry 7: the 16-bit draw `RAND16()` of the k-th draw since reset (R22, R132). No body, so no proof can
rest on a value of it. -/
opaque Config.rand16 : Nat → BitVec 16

/-- FREE VALUE, log entry 8: the digit at which the search for a key that is down begins (R152 (b)). No body, so every key
that is down may be the one reported. -/
opaque Config.keyPick : Nat → Fin 16

end Sys2Proof
end

