-- ==== Sys2Proof/Syntax.lean ====
section
/-! DEFINITION. The 34 instructions of spec/30_encoding.md R73, one constructor per row of spec/opcode_table.json, in the
table's order, with the operands of R63. -/

namespace Sys2Proof

/-- The instructions. `x` and `y` number general registers, `nn` is a byte, `nnn` a 12-bit address and `n` a row count (R61, R63). -/
inductive Instr where
  /-- JP nnn (1nnn), R101. -/
  | jp (nnn : BitVec 12)
  /-- CALL nnn (2nnn), R102. -/
  | call (nnn : BitVec 12)
  /-- RET (00EE), R100. -/
  | ret
  /-- SE Vx,nn (3xnn), R103. -/
  | seImm (x : Fin 16) (nn : Byte)
  /-- SNE Vx,nn (4xnn), R104. -/
  | sneImm (x : Fin 16) (nn : Byte)
  /-- SE Vx,Vy (5xy0), R105. -/
  | seReg (x y : Fin 16)
  /-- SNE Vx,Vy (9xy0), R106. -/
  | sneReg (x y : Fin 16)
  /-- JP V0,nnn (Bnnn), R107. -/
  | jpV0 (nnn : BitVec 12)
  /-- LD Vx,nn (6xnn), R110. -/
  | ldImm (x : Fin 16) (nn : Byte)
  /-- ADD Vx,nn (7xnn), R111. -/
  | addImm (x : Fin 16) (nn : Byte)
  /-- LD Vx,Vy (8xy0), R112. -/
  | ldReg (x y : Fin 16)
  /-- OR Vx,Vy (8xy1), R113. -/
  | orReg (x y : Fin 16)
  /-- AND Vx,Vy (8xy2), R114. -/
  | andReg (x y : Fin 16)
  /-- XOR Vx,Vy (8xy3), R115. -/
  | xorReg (x y : Fin 16)
  /-- ADD Vx,Vy (8xy4), R116. -/
  | addReg (x y : Fin 16)
  /-- SUB Vx,Vy (8xy5), R117. -/
  | subReg (x y : Fin 16)
  /-- SHR Vx,Vy (8xy6), R118. -/
  | shr (x y : Fin 16)
  /-- SUBN Vx,Vy (8xy7), R119. -/
  | subn (x y : Fin 16)
  /-- SHL Vx,Vy (8xyE), R120. -/
  | shl (x y : Fin 16)
  /-- LD I,nnn (Annn), R130. -/
  | ldI (nnn : BitVec 12)
  /-- ADD I,Vx (Fx1E), R131. -/
  | addI (x : Fin 16)
  /-- RND Vx,nn (Cxnn), R132. -/
  | rnd (x : Fin 16) (nn : Byte)
  /-- DRW Vx,Vy,n (Dxyn), R141; the count `n` is 0..15, which `Instr.wellFormed` checks. -/
  | drw (x y : Fin 16) (n : Nat)
  /-- CLS (00E0), R140. -/
  | cls
  /-- SKP Vx (Ex9E), R150. -/
  | skp (x : Fin 16)
  /-- SKNP Vx (ExA1), R151. -/
  | sknp (x : Fin 16)
  /-- LD Vx,K (Fx0A), R152. -/
  | ldKey (x : Fin 16)
  /-- LD Vx,DT (Fx07), R153. -/
  | ldFromDt (x : Fin 16)
  /-- LD DT,Vx (Fx15), R154. -/
  | ldDt (x : Fin 16)
  /-- LD ST,Vx (Fx18), R155. -/
  | ldSt (x : Fin 16)
  /-- LD B,Vx (Fx33), R161. -/
  | ldB (x : Fin 16)
  /-- LD [I],Vx (Fx55), R162. -/
  | ldStore (x : Fin 16)
  /-- LD Vx,[I] (Fx65), R163. -/
  | ldLoad (x : Fin 16)
  /-- LD F,Vx (Fx29), R160. -/
  | ldF (x : Fin 16)
deriving DecidableEq, Repr

/-- The field of an unknown word that failed to match (spec/30_encoding.md R70, log entry 11). -/
inductive FailingField where
  | n
  | nn
  | nnn
deriving DecidableEq, Repr

end Sys2Proof
end

