-- ==== Sys2Proof/WellFormed.lean ====
section
/-! DEFINITION. The checks that the operands' types do not already make: the row count of DRW is 0..15 (spec/30_encoding.md
R63), and the font region of a configuration lies in the reserved region below 0x200 (spec/00_scope.md R4, spec/20_memory.md R41). -/

namespace Sys2Proof

/-- The operands fit their fields. All fields but DRW's count fit by their type. -/
def Instr.wellFormed : Instr → Bool
  | .drw _ _ n => decide (n ≤ 15)
  | .jp _ | .call _ | .ret | .seImm _ _ | .sneImm _ _ | .seReg _ _ | .sneReg _ _ | .jpV0 _ | .ldImm _ _ | .addImm _ _
  | .ldReg _ _ | .orReg _ _ | .andReg _ _ | .xorReg _ _ | .addReg _ _ | .subReg _ _ | .shr _ _ | .subn _ _ | .shl _ _
  | .ldI _ | .addI _ | .rnd _ _ | .cls | .skp _ | .sknp _ | .ldKey _ | .ldFromDt _ | .ldDt _ | .ldSt _ | .ldB _
  | .ldStore _ | .ldLoad _ | .ldF _ => true

/-- The 80 bytes of the font region lie below the program region. -/
def Config.wellFormed (c : Config) : Bool := decide (c.fontBase + 80 ≤ 0x200)

end Sys2Proof
end

