-- ==== Sys2Proof/Decode.lean ====
section
/-! DEFINITION. The decoder of spec/30_encoding.md (fields R61, two-level dispatch R64 to R69, rejection by failing field
R70), the encoder written from the same table (R73), the table's own match and mask columns, and the decoder on table words
that the host asks for. The opcode numbers are the spec's general knowledge (log entry 10). -/

namespace Sys2Proof

/-! ## The six fields (R61) -/

/-- `op`, bits 15:12. -/
def fieldOp (w : Word) : Nat := (w.extractLsb' 12 4).toNat
/-- `x`, bits 11:8, a register number. -/
def fieldX (w : Word) : Fin 16 := (w.extractLsb' 8 4).toFin
/-- `y`, bits 7:4, a register number. -/
def fieldY (w : Word) : Fin 16 := (w.extractLsb' 4 4).toFin
/-- `n`, bits 3:0, a count or a selector. -/
def fieldN (w : Word) : Nat := (w.extractLsb' 0 4).toNat
/-- `nn`, bits 7:0. -/
def fieldNn (w : Word) : Byte := w.extractLsb' 0 8
/-- `nnn`, bits 11:0. -/
def fieldNnn (w : Word) : BitVec 12 := w.extractLsb' 0 12

/-! ## The decoder (R64 to R70) -/

/-- Group `op` = 0: the whole word selects (R65, log entry 11). -/
def decodeSys (w : Word) : Except FailingField Instr :=
  if w = 0x00E0 then .ok .cls
  else if w = 0x00EE then .ok .ret
  else .error .nnn

/-- Group `op` = 8: `n` selects (R66). -/
def decodeAlu (w : Word) : Except FailingField Instr :=
  match fieldN w with
  | 0x0 => .ok (.ldReg (fieldX w) (fieldY w))
  | 0x1 => .ok (.orReg (fieldX w) (fieldY w))
  | 0x2 => .ok (.andReg (fieldX w) (fieldY w))
  | 0x3 => .ok (.xorReg (fieldX w) (fieldY w))
  | 0x4 => .ok (.addReg (fieldX w) (fieldY w))
  | 0x5 => .ok (.subReg (fieldX w) (fieldY w))
  | 0x6 => .ok (.shr (fieldX w) (fieldY w))
  | 0x7 => .ok (.subn (fieldX w) (fieldY w))
  | 0xE => .ok (.shl (fieldX w) (fieldY w))
  | _ => .error .n

/-- Group `op` = 0xE: `nn` selects (R67). -/
def decodeKey (w : Word) : Except FailingField Instr :=
  match (fieldNn w).toNat with
  | 0x9E => .ok (.skp (fieldX w))
  | 0xA1 => .ok (.sknp (fieldX w))
  | _ => .error .nn

/-- Group `op` = 0xF: `nn` selects (R68). -/
def decodeMisc (w : Word) : Except FailingField Instr :=
  match (fieldNn w).toNat with
  | 0x07 => .ok (.ldFromDt (fieldX w))
  | 0x0A => .ok (.ldKey (fieldX w))
  | 0x15 => .ok (.ldDt (fieldX w))
  | 0x18 => .ok (.ldSt (fieldX w))
  | 0x1E => .ok (.addI (fieldX w))
  | 0x29 => .ok (.ldF (fieldX w))
  | 0x33 => .ok (.ldB (fieldX w))
  | 0x55 => .ok (.ldStore (fieldX w))
  | 0x65 => .ok (.ldLoad (fieldX w))
  | _ => .error .nn

/-- The decoder: each of the 65536 words is one instruction with its operands, or unknown with its failing field (R64, R74). -/
def decode (w : Word) : Except FailingField Instr :=
  match fieldOp w with
  | 0x0 => decodeSys w
  | 0x1 => .ok (.jp (fieldNnn w))
  | 0x2 => .ok (.call (fieldNnn w))
  | 0x3 => .ok (.seImm (fieldX w) (fieldNn w))
  | 0x4 => .ok (.sneImm (fieldX w) (fieldNn w))
  | 0x5 => if fieldN w = 0 then .ok (.seReg (fieldX w) (fieldY w)) else .error .n
  | 0x6 => .ok (.ldImm (fieldX w) (fieldNn w))
  | 0x7 => .ok (.addImm (fieldX w) (fieldNn w))
  | 0x8 => decodeAlu w
  | 0x9 => if fieldN w = 0 then .ok (.sneReg (fieldX w) (fieldY w)) else .error .n
  | 0xA => .ok (.ldI (fieldNnn w))
  | 0xB => .ok (.jpV0 (fieldNnn w))
  | 0xC => .ok (.rnd (fieldX w) (fieldNn w))
  | 0xD => .ok (.drw (fieldX w) (fieldY w) (fieldN w))
  | 0xE => decodeKey w
  | _ => decodeMisc w

/-- Two bytes in memory order make a word with the first byte as its more significant half (spec/20_memory.md R42). -/
def wordOfBytes (hi lo : Byte) : Word := BitVec.ofNat 16 (hi.toNat * 0x100 + lo.toNat)

/-- Why a sequence of bytes does not begin with an instruction. -/
inductive DecodeReject where
  /-- Fewer than two bytes are left. -/
  | truncated
  /-- The word is not in the table (R70). -/
  | unknown (word : Word) (field : FailingField)
deriving DecidableEq, Repr

/-- The decoder on bytes in memory order: the instruction and the bytes after it, or a rejection by name. -/
def decodeBytes : List Byte → Except DecodeReject (Instr × List Byte)
  | hi :: lo :: rest =>
    match decode (wordOfBytes hi lo) with
    | .ok i => .ok (i, rest)
    | .error f => .error (.unknown (wordOfBytes hi lo) f)
  | _ => .error .truncated

/-! ## The encoder (R73) -/

/-- Format NNN: `op` and an address. -/
def formNNN (op : Nat) (nnn : BitVec 12) : Word := BitVec.ofNat 16 (op * 0x1000 + nnn.toNat)
/-- Format XNN: `op`, a register and a byte; format X, where the byte is the selector, too. -/
def formXNN (op : Nat) (x : Fin 16) (nn : Byte) : Word := BitVec.ofNat 16 (op * 0x1000 + x.val * 0x100 + nn.toNat)
/-- Formats XY and XYN: `op`, two registers and a nibble. -/
def formXYN (op : Nat) (x y : Fin 16) (n : Nat) : Word :=
  BitVec.ofNat 16 (op * 0x1000 + x.val * 0x100 + y.val * 0x10 + n % 0x10)

/-- The word of an instruction, row by row as R73 writes the patterns. -/
def encode : Instr → Word
  | .jp nnn => formNNN 0x1 nnn
  | .call nnn => formNNN 0x2 nnn
  | .ret => 0x00EE
  | .seImm x nn => formXNN 0x3 x nn
  | .sneImm x nn => formXNN 0x4 x nn
  | .seReg x y => formXYN 0x5 x y 0x0
  | .sneReg x y => formXYN 0x9 x y 0x0
  | .jpV0 nnn => formNNN 0xB nnn
  | .ldImm x nn => formXNN 0x6 x nn
  | .addImm x nn => formXNN 0x7 x nn
  | .ldReg x y => formXYN 0x8 x y 0x0
  | .orReg x y => formXYN 0x8 x y 0x1
  | .andReg x y => formXYN 0x8 x y 0x2
  | .xorReg x y => formXYN 0x8 x y 0x3
  | .addReg x y => formXYN 0x8 x y 0x4
  | .subReg x y => formXYN 0x8 x y 0x5
  | .shr x y => formXYN 0x8 x y 0x6
  | .subn x y => formXYN 0x8 x y 0x7
  | .shl x y => formXYN 0x8 x y 0xE
  | .ldI nnn => formNNN 0xA nnn
  | .addI x => formXNN 0xF x 0x1E
  | .rnd x nn => formXNN 0xC x nn
  | .drw x y n => formXYN 0xD x y n
  | .cls => 0x00E0
  | .skp x => formXNN 0xE x 0x9E
  | .sknp x => formXNN 0xE x 0xA1
  | .ldKey x => formXNN 0xF x 0x0A
  | .ldFromDt x => formXNN 0xF x 0x07
  | .ldDt x => formXNN 0xF x 0x15
  | .ldSt x => formXNN 0xF x 0x18
  | .ldB x => formXNN 0xF x 0x33
  | .ldStore x => formXNN 0xF x 0x55
  | .ldLoad x => formXNN 0xF x 0x65
  | .ldF x => formXNN 0xF x 0x29

/-- The two bytes of an instruction in memory order (R42). -/
def encodeBytes (i : Instr) : List Byte := [(encode i).extractLsb' 8 8, (encode i).extractLsb' 0 8]

/-! ## The table's match and mask columns (R73) -/

/-- One row of the table: a word is the row's instruction exactly when `w &&& mask = pattern`. -/
structure OpcodeRow where
  pattern : Word
  mask : Word
deriving DecidableEq, Repr

/-- The row an instruction belongs to. -/
def tableRow : Instr → OpcodeRow
  | .jp _ => ⟨0x1000, 0xF000⟩
  | .call _ => ⟨0x2000, 0xF000⟩
  | .ret => ⟨0x00EE, 0xFFFF⟩
  | .seImm _ _ => ⟨0x3000, 0xF000⟩
  | .sneImm _ _ => ⟨0x4000, 0xF000⟩
  | .seReg _ _ => ⟨0x5000, 0xF00F⟩
  | .sneReg _ _ => ⟨0x9000, 0xF00F⟩
  | .jpV0 _ => ⟨0xB000, 0xF000⟩
  | .ldImm _ _ => ⟨0x6000, 0xF000⟩
  | .addImm _ _ => ⟨0x7000, 0xF000⟩
  | .ldReg _ _ => ⟨0x8000, 0xF00F⟩
  | .orReg _ _ => ⟨0x8001, 0xF00F⟩
  | .andReg _ _ => ⟨0x8002, 0xF00F⟩
  | .xorReg _ _ => ⟨0x8003, 0xF00F⟩
  | .addReg _ _ => ⟨0x8004, 0xF00F⟩
  | .subReg _ _ => ⟨0x8005, 0xF00F⟩
  | .shr _ _ => ⟨0x8006, 0xF00F⟩
  | .subn _ _ => ⟨0x8007, 0xF00F⟩
  | .shl _ _ => ⟨0x800E, 0xF00F⟩
  | .ldI _ => ⟨0xA000, 0xF000⟩
  | .addI _ => ⟨0xF01E, 0xF0FF⟩
  | .rnd _ _ => ⟨0xC000, 0xF000⟩
  | .drw _ _ _ => ⟨0xD000, 0xF000⟩
  | .cls => ⟨0x00E0, 0xFFFF⟩
  | .skp _ => ⟨0xE09E, 0xF0FF⟩
  | .sknp _ => ⟨0xE0A1, 0xF0FF⟩
  | .ldKey _ => ⟨0xF00A, 0xF0FF⟩
  | .ldFromDt _ => ⟨0xF007, 0xF0FF⟩
  | .ldDt _ => ⟨0xF015, 0xF0FF⟩
  | .ldSt _ => ⟨0xF018, 0xF0FF⟩
  | .ldB _ => ⟨0xF033, 0xF0FF⟩
  | .ldStore _ => ⟨0xF055, 0xF0FF⟩
  | .ldLoad _ => ⟨0xF065, 0xF0FF⟩
  | .ldF _ => ⟨0xF029, 0xF0FF⟩

/-- The word belongs to the row. -/
def OpcodeRow.accepts (r : OpcodeRow) (w : Word) : Bool := w &&& r.mask == r.pattern

/-! ## The host's question -/

/-- The word that `nbits` table bits give: bits at and above `nbits` are 0. -/
def tableWord (nbits w : Nat) : Word := BitVec.ofNat 16 (w % 2 ^ nbits)

/-- The bytes of a table word as the hardware stores them: the upper byte at the lower address (R42). -/
def tableBytes (nbits w : Nat) : List Byte := [(tableWord nbits w).extractLsb' 8 8, (tableWord nbits w).extractLsb' 0 8]

/-- The instruction the decoder reads from the table word's bytes. -/
def decodeTableWord (nbits w : Nat) : Option Instr :=
  match decodeBytes (tableBytes nbits w) with
  | .ok (i, _) => some i
  | .error _ => none

end Sys2Proof
end

