-- ==== Sys2Proof/Machine/Defaults.lean ====
section
/-! DEFINITION. The parameter values of this hardware: the defaults of spec/00_scope.md R4 and R5 and the font table of
spec/20_memory.md R41. -/

namespace Sys2Proof.Machine

/-- The default `FONT_GLYPHS`, glyph of digit d at offset 5*d (R41, the spec's decision D2, log entry 12). -/
def defaultFontGlyphs : Vector Byte 80 :=
  #v[0xF0, 0x90, 0x90, 0x90, 0xF0,  0x20, 0x60, 0x20, 0x20, 0x70,  0xF0, 0x10, 0xF0, 0x80, 0xF0,  0xF0, 0x10, 0xF0, 0x10, 0xF0,
     0x90, 0x90, 0xF0, 0x10, 0x10,  0xF0, 0x80, 0xF0, 0x10, 0xF0,  0xF0, 0x80, 0xF0, 0x90, 0xF0,  0xF0, 0x10, 0x20, 0x40, 0x40,
     0xF0, 0x90, 0xF0, 0x90, 0xF0,  0xF0, 0x90, 0xF0, 0x10, 0xF0,  0xF0, 0x90, 0xF0, 0x90, 0x90,  0xE0, 0x90, 0xE0, 0x90, 0xE0,
     0xF0, 0x80, 0x80, 0x80, 0xF0,  0xE0, 0x90, 0x90, 0x90, 0xE0,  0xF0, 0x80, 0xF0, 0x80, 0xF0,  0xF0, 0x80, 0xF0, 0x80, 0x80]

/-- The default parameters and quirks (R4, R5). -/
def defaultConfig : Config where
  qJumpVx := false
  qShiftVy := true
  qIndexOvf := true
  fontBase := 0x050
  fontGlyphs := defaultFontGlyphs
  stackDepth := 16

end Sys2Proof.Machine
end

