-- ==== Sys2Proof/Machine/State.lean ====
section
/-! DEFINITION. The state of spec/10_state.md as plain data, the errors of spec/60_exceptions.md R180, the operations of
spec/40_step_and_host_ops.md R80 that can be waiting, the reasons a step stops, and the state after reset (R25). -/

namespace Sys2Proof.Machine

/-- The errors of spec/60_exceptions.md R180, with their payloads, in the order of their codes. -/
inductive Error where
  /-- LoadError::ProgramTooLarge, the result of `load_program`; never latched (R198). -/
  | programTooLarge
  /-- FetchError::OutOfBounds, with PC (R181). -/
  | outOfBounds (pc : Word)
  /-- DecodeError::UnknownOpcode, with the raw word and the field that failed to match (R182). -/
  | unknownOpcode (word : Word) (field : FailingField)
  /-- ExecError::StackUnderflow (R183). -/
  | stackUnderflow
  /-- ExecError::StackOverflow (R184). -/
  | stackOverflow
  /-- ExecError::DataOutOfBounds, with the highest offending address (R185). -/
  | dataOutOfBounds (addr : Nat)
  /-- ExecError::KeyOutOfRange, with V[x] (R186). -/
  | keyOutOfRange (value : Byte)
  /-- ExecError::DigitOutOfRange, with V[x] (R187). -/
  | digitOutOfRange (value : Byte)
deriving DecidableEq, Repr

/-- One operation of one agent (spec/40_step_and_host_ops.md R80, R92); a member of the agenda (log entry 2). -/
inductive Turn where
  /-- One Step of the core (R86). -/
  | core
  /-- `fetch` called on its own (R84); the word goes to the caller. -/
  | fetch
  /-- `decode_execute(w)` called on its own, for any word (R85). -/
  | decodeExecute (w : Word)
  /-- `tick_timers` (R87). -/
  | tick
  /-- The host changes the key states (R89). -/
  | keys (k : BitVec 16)
  /-- The consumer's dirty-clear (R88). -/
  | clearDirty
  /-- `initialize()`, which writes the font (R82). -/
  | initFont
  /-- `load_program(bytes)` (R83). -/
  | loadProgram (bytes : List Byte)
  /-- Reset, the construction of the machine (R81). -/
  | reset
deriving DecidableEq, Repr

/-- MEM (R19) as a list of its nonzero bytes by rising address; `Memory.read` in Machine/Ops.lean says what an unlisted
address reads as. -/
abbrev Memory := List Host.Cell

/-- The lowest address of the rest of a canonical memory is at least `lo`. -/
def Memory.wfFrom (lo : Nat) : Memory → Bool
  | [] => true
  | (a, v) :: m => decide (lo ≤ a) && decide (a ≤ 0xFFF) && decide (v ≠ 0#8) && Memory.wfFrom (a + 1) m

/-- The canonical form: addresses strictly rising, none above 0xFFF, no byte 0x00 listed. -/
def Memory.wf (m : Memory) : Bool := Memory.wfFrom 0 m

/-- The machine's state (spec/10_state.md R10 to R20), its inputs and parameters (R21, spec/00_scope.md R4, R5), and the model's
own two fields `agenda` and `draws` (log entries 2, 7 and 8). -/
structure State where
  /-- V[0]..V[15] (R10); VF is V[15] (R11). -/
  v : Vector Byte 16
  /-- I, the index register (R12). -/
  index : Word
  /-- PC (R13). -/
  pc : Word
  /-- STACK, newest entry first (R14). -/
  stack : List Word
  /-- DT (R15). -/
  dt : Byte
  /-- ST (R16). -/
  st : Byte
  /-- FB[y][x] (R17): 32 rows of 64 pixels. -/
  fb : Vector (Vector Bool 64) 32
  /-- DIRTY (R18). -/
  dirty : Bool
  /-- MEM (R19). -/
  mem : Memory
  /-- ERR (R20). -/
  err : Option Error
  /-- The input KEYS (R21): bit k is true while key k is down. -/
  keys : BitVec 16
  /-- The parameters and quirks, which no operation changes (spec/00_scope.md R4, R5; log entry 3). -/
  cfg : Config
  /-- MODEL'S OWN: the operations that come before the core steps on by itself (log entry 2). -/
  agenda : List Turn
  /-- MODEL'S OWN: how many free values have been taken (log entries 7 and 8). -/
  draws : Nat
deriving DecidableEq, Repr

/-- Why a step stops. -/
inductive Fault where
  /-- Raised by the core's Step when ERR is latched and no other agent has an operation waiting: the core has no transition
  until reset (spec/40_step_and_host_ops.md R93). Safe: the hardware does not step on either (log entry 1). -/
  | halted (e : Error)
deriving DecidableEq, Repr

/-- Why an instruction is refused. -/
inductive Refusal where
  /-- Raised by an arm of `exec` for an instruction that has no meaning yet. Safe; no arm raises it now. -/
  | notModelled (mnemonic : String)
deriving DecidableEq, Repr

/-- What a meaning answers. -/
abbrev Result := Host.Outcome State Fault Refusal

/-- Reset is the construction of the machine (spec/10_state.md R25, spec/40_step_and_host_ops.md R81) with its parameters and the
key states its input shows. -/
def State.construct (cfg : Config) (keys : BitVec 16) : State where
  v := Vector.replicate 16 0
  index := 0
  pc := 0
  stack := []
  dt := 0
  st := 0
  fb := Vector.replicate 32 (Vector.replicate 64 false)
  dirty := false
  mem := []
  err := none
  keys := keys
  cfg := cfg
  agenda := []
  draws := 0

/-- The machine right after reset, at the default parameters, with no key down (log entries 4, 5 and 6). -/
def State.reset : State := State.construct defaultConfig 0

end Sys2Proof.Machine
end

