-- ==== Sys2Proof/Machine/Ops.lean ====
section
/-! DEFINITION. The operations every meaning is written in: memory and register access, the call stack, the flag, the skip, and
RAISING AN ERROR, the machine's only exception entry (spec/60_exceptions.md R188). -/

namespace Sys2Proof.Machine

/-! ## Memory (spec/20_memory.md) -/

/-- MEM[a]; an unlisted address reads as 0x00, its reset content (spec/10_state.md R25, log entry 9). -/
def Memory.read : Memory → Nat → Byte
  | [], _ => 0
  | (b, w) :: m, a => if a = b then w else Memory.read m a

/-- The list with MEM[a] set to `v`, in canonical form: the entry is placed by its address, and a byte 0x00 is not listed. -/
def Memory.insert : Memory → Nat → Byte → Memory
  | [], a, v => if v = 0#8 then [] else [(a, v)]
  | (b, w) :: m, a, v =>
    if a < b then (if v = 0#8 then (b, w) :: m else (a, v) :: (b, w) :: m)
    else if a = b then (if v = 0#8 then m else (a, v) :: m)
    else (b, w) :: Memory.insert m a v

/-- `MemWrite(a, 1, v)` (R47). An address beyond 0xFFF never reaches MEM. -/
def Memory.write (m : Memory) (a : Nat) (v : Byte) : Memory := if a ≤ 0xFFF then Memory.insert m a v else m

/-- Bytes written one per address in ascending order from `a` (R43). -/
def Memory.writeBytes (m : Memory) (a : Nat) : List Byte → Memory
  | [] => m
  | b :: bs => Memory.writeBytes (Memory.write m a b) (a + 1) bs

/-! ## Writing one piece of state -/

/-- `V[x] <- b` (spec/10_state.md R10): no register is hardwired. -/
def State.setReg (x : Fin 16) (b : Byte) (s : State) : State := { s with v := s.v.set x.val b x.isLt }
/-- The whole register file, for the block load (R163). -/
def State.setRegs (v : Vector Byte 16) (s : State) : State := { s with v := v }
/-- `I <- w` (R12). -/
def State.setIndex (w : Word) (s : State) : State := { s with index := w }
/-- `pc <- w` (R13). -/
def State.setPc (w : Word) (s : State) : State := { s with pc := w }
/-- STACK, newest entry first (R14). -/
def State.setStack (k : List Word) (s : State) : State := { s with stack := k }
/-- `DT <- b` (R15). -/
def State.setDt (b : Byte) (s : State) : State := { s with dt := b }
/-- `ST <- b` (R16). -/
def State.setSt (b : Byte) (s : State) : State := { s with st := b }
/-- The display buffer (R17). -/
def State.setFb (f : Vector (Vector Bool 64) 32) (s : State) : State := { s with fb := f }
/-- `DIRTY <- b` (R18). -/
def State.setDirty (b : Bool) (s : State) : State := { s with dirty := b }
/-- MEM (R19). -/
def State.setMem (m : Memory) (s : State) : State := { s with mem := m }
/-- `ERR <- e` (R20). -/
def State.setErr (e : Option Error) (s : State) : State := { s with err := e }
/-- The KEYS input (R21). -/
def State.setKeys (k : BitVec 16) (s : State) : State := { s with keys := k }
/-- The operations waiting (log entry 2). -/
def State.setAgenda (l : List Turn) (s : State) : State := { s with agenda := l }
/-- One more free value has been taken (log entries 7 and 8). -/
def State.bumpDraws (s : State) : State := { s with draws := s.draws + 1 }

/-! ## Registers and the flag -/

/-- V[x] (R10). -/
def State.reg (s : State) (x : Fin 16) : Byte := s.v[x]

/-- VF, the alias of V[15] (R11). -/
def State.vf (s : State) : Byte := s.reg 15

/-- `VF <- 1` or `VF <- 0`: the flag is always exactly 0x00 or 0x01 (spec/42_arithmetic.md R122). -/
def State.setFlag (b : Bool) (s : State) : State := s.setReg 15 (if b then 1 else 0)

/-- The result to V[x], then the flag to VF, last, so that VF holds the flag when x = 15 (R8, R121, log entry 15). -/
def State.setRegFlag (x : Fin 16) (r : Byte) (f : Bool) (s : State) : State := (s.setReg x r).setFlag f

/-! ## Memory seen from the state -/

/-- `MemRead(a, 1)` (spec/20_memory.md R47). -/
def State.memRead (s : State) (a : Nat) : Byte := s.mem.read a

/-- A run of one-byte stores in ascending order from `a` (R43, R47). -/
def State.memWriteBytes (a : Nat) (bs : List Byte) (s : State) : State := s.setMem (s.mem.writeBytes a bs)

/-! ## Raising an error -/

/-- `raise E(info)` (spec/60_exceptions.md R188): ERR is set and nothing else changes. There is no return from an error (R189);
ERR is cleared by reset alone. -/
def State.raise (e : Error) (s : State) : Result := .next (s.setErr (some e))

/-- The bounds check of a data access whose highest address is `last` (spec/20_memory.md R45): beyond 0xFFF the error is raised with
that address and nothing of the instruction happens, otherwise the instruction leaves the state `t`. -/
def State.boundsChecked (last : Nat) (s t : State) : Result :=
  if 0xFFF < last then s.raise (.dataOutOfBounds last) else .next t

/-! ## The call stack (spec/10_state.md R14) -/

/-- `push(w)`: StackOverflow when the stack already holds STACK_DEPTH entries (R184), otherwise `w` is the newest entry of what
`k` goes on from. -/
def State.push (w : Word) (s : State) (k : State → State) : Result :=
  if s.cfg.stackDepth ≤ s.stack.length then s.raise .stackOverflow else .next (k (s.setStack (w :: s.stack)))

/-- `pop()`: StackUnderflow on the empty stack (R183), otherwise the newest entry goes to `k` and leaves the stack. -/
def State.pop (s : State) (k : Word → State → State) : Result :=
  match s.stack with
  | [] => s.raise .stackUnderflow
  | w :: rest => .next (k w (s.setStack rest))

/-! ## The program counter -/

/-- A skip: PC advances by a further 2 when the condition holds (R13). -/
def State.skipIf (c : Bool) (s : State) : State := if c then s.setPc (s.pc + 2) else s

/-- `fetch()` (spec/40_step_and_host_ops.md R84): the word at PC and PC+1, the byte at PC on top, and PC advanced by 2; with PC at
or beyond 0xFFF no word and OutOfBounds raised, PC kept; with ERR latched no transition (R93). -/
def State.fetch (s : State) : Option Word × State :=
  match s.err with
  | some _ => (none, s)
  | none =>
    if 0xFFF ≤ s.pc.toNat then (none, s.setErr (some (.outOfBounds s.pc)))
    else (some (wordOfBytes (s.memRead s.pc.toNat) (s.memRead (s.pc.toNat + 1))), s.setPc (s.pc + 2))

/-- The number of an error on an error port (spec/60_exceptions.md R180, the spec's decision D23). -/
def Error.code : Error → Nat
  | .programTooLarge => 1
  | .outOfBounds _ => 2
  | .unknownOpcode _ _ => 3
  | .stackUnderflow => 4
  | .stackOverflow => 5
  | .dataOutOfBounds _ => 6
  | .keyOutOfRange _ => 7
  | .digitOutOfRange _ => 8

end Sys2Proof.Machine
end

