-- ==== Sys2Proof/Machine/Flags.lean ====
section
/-! DEFINITION. Every flag computation of the machine (spec/10_state.md R11, spec/42_arithmetic.md R122): what VF becomes, as a
Boolean. The collision flag of DRW is in Machine/Display.lean beside the sprite it is about. -/

namespace Sys2Proof.Machine

/-- Carry out of an 8-bit addition: the 9-bit sum exceeds 255 (R116). -/
def carryOut (a b : Byte) : Bool := decide (255 < a.toNat + b.toNat)

/-- No borrow in `a - b`: `a >= b` (R117, R119). -/
def noBorrow (a b : Byte) : Bool := decide (b.toNat ≤ a.toNat)

/-- The bit a right shift drops, old bit 0 (R118). -/
def outRight (b : Byte) : Bool := b.getLsbD 0

/-- The bit a left shift drops, old bit 7 (R120). -/
def outLeft (b : Byte) : Bool := b.getLsbD 7

/-- The 17-bit sum of add-to-index leaves the 12-bit address range (R131, the spec's decision D13). -/
def indexOut (sum : Nat) : Bool := decide (0x0FFF < sum)

end Sys2Proof.Machine
end

