-- ==== Sys2Proof/Machine/Operands.lean ====
section
/-! DEFINITION. The operand forms of spec/30_encoding.md R63 that are more than a register read: addresses, the quirk-dependent
operands (spec/00_scope.md R5), the addresses and bytes of a block transfer, the decimal digits, and the key that is reported. -/

namespace Sys2Proof.Machine

/-- `zext_16(nnn)`, an address immediate (R63). -/
def addr16 (nnn : BitVec 12) : Word := nnn.setWidth 16

/-- The register number in the upper nibble of an address immediate (R107, quirk). -/
def addrReg (nnn : BitVec 12) : Fin 16 := (nnn.extractLsb' 8 4).toFin

/-- The offset of jump-with-offset: V[0], or V[x] when `Q_JUMP_VX` (R107). -/
def State.jumpOffset (nnn : BitVec 12) (s : State) : Byte :=
  if s.cfg.qJumpVx then s.reg (addrReg nnn) else s.reg 0

/-- The value shifted: V[y] when `Q_SHIFT_VY`, else V[x] (R118, R120). -/
def State.shiftSource (x y : Fin 16) (s : State) : Byte := if s.cfg.qShiftVy then s.reg y else s.reg x

/-- `I + k` in unbounded arithmetic (spec/20_memory.md R47). -/
def State.indexPlus (s : State) (k : Nat) : Nat := s.index.toNat + k

/-- The 17-bit sum of I and V[x] (R131). -/
def State.indexSum (x : Fin 16) (s : State) : Nat := s.index.toNat + (s.reg x).toNat

/-- V[0], ..., V[x], what the block store writes (R162). -/
def State.firstRegs (x : Fin 16) (s : State) : List Byte := s.v.toList.take (x.val + 1)

/-- The register file after the block load: V[0..x] from MEM[I..I+x], the others kept (R163). -/
def State.loadedRegs (x : Fin 16) (s : State) : Vector Byte 16 :=
  Vector.ofFn fun k => if k.val ≤ x.val then s.memRead (s.indexPlus k.val) else s.reg k

/-- The hundreds, tens and ones of a byte, in the order they are stored (R161). -/
def bcdDigits (b : Byte) : List Byte :=
  [BitVec.ofNat 8 (b.toNat / 100), BitVec.ofNat 8 (b.toNat / 10 % 10), BitVec.ofNat 8 (b.toNat % 10)]

/-- The address of a digit's glyph (R160). -/
def State.glyphAddr (d : Byte) (s : State) : Word := BitVec.ofNat 16 (s.cfg.fontBase + 5 * d.toNat)

/-- The first digit of a key that is down, counting up from `start` and around. As `start` ranges over the digits this
is every key that is down, and nothing else while some key is down (R152 (b), log entry 8). -/
def keyFrom (keys : BitVec 16) (start : Fin 16) : Fin 16 :=
  match (List.finRange 16).find? fun j => keys.getLsbD (start + j).val with
  | some j => start + j
  | none => start

/-- The key LD Vx,K reports. -/
def State.reportedKey (s : State) : Fin 16 := keyFrom s.keys (Config.keyPick s.draws)

end Sys2Proof.Machine
end

