-- ==== Sys2Proof/Machine/Arithmetic.lean ====
section
/-! DEFINITION. The arithmetic instructions of spec/42_arithmetic.md. Operands are read from the state on entry, the result is
written to V[x], and the flag, where there is one, to VF last (R121). -/

namespace Sys2Proof.Machine

/-- LD Vx,nn (R110). -/
def execLdImm (x : Fin 16) (nn : Byte) (s : State) : Result := .next (s.setReg x nn)

/-- ADD Vx,nn (R111): wraps, no flag. -/
def execAddImm (x : Fin 16) (nn : Byte) (s : State) : Result := .next (s.setReg x (s.reg x + nn))

/-- LD Vx,Vy (R112). -/
def execLdReg (x y : Fin 16) (s : State) : Result := .next (s.setReg x (s.reg y))

/-- OR Vx,Vy (R113): VF is not written. -/
def execOrReg (x y : Fin 16) (s : State) : Result := .next (s.setReg x (s.reg x ||| s.reg y))

/-- AND Vx,Vy (R114): VF is not written. -/
def execAndReg (x y : Fin 16) (s : State) : Result := .next (s.setReg x (s.reg x &&& s.reg y))

/-- XOR Vx,Vy (R115): VF is not written. -/
def execXorReg (x y : Fin 16) (s : State) : Result := .next (s.setReg x (s.reg x ^^^ s.reg y))

/-- ADD Vx,Vy (R116). -/
def execAddReg (x y : Fin 16) (s : State) : Result :=
  .next (s.setRegFlag x (s.reg x + s.reg y) (carryOut (s.reg x) (s.reg y)))

/-- SUB Vx,Vy (R117). -/
def execSubReg (x y : Fin 16) (s : State) : Result :=
  .next (s.setRegFlag x (s.reg x - s.reg y) (noBorrow (s.reg x) (s.reg y)))

/-- SHR Vx,Vy (R118). -/
def execShr (x y : Fin 16) (s : State) : Result :=
  .next (s.setRegFlag x (s.shiftSource x y >>> 1) (outRight (s.shiftSource x y)))

/-- SUBN Vx,Vy (R119). -/
def execSubn (x y : Fin 16) (s : State) : Result :=
  .next (s.setRegFlag x (s.reg y - s.reg x) (noBorrow (s.reg y) (s.reg x)))

/-- SHL Vx,Vy (R120). -/
def execShl (x y : Fin 16) (s : State) : Result :=
  .next (s.setRegFlag x (s.shiftSource x y <<< 1) (outLeft (s.shiftSource x y)))

end Sys2Proof.Machine
end

