-- ==== Sys2Proof/Machine/ControlFlow.lean ====
section
/-! DEFINITION. The control-flow instructions of spec/41_control_flow.md. PC on entry is the instruction's address plus 2. -/

namespace Sys2Proof.Machine

/-- JP nnn (R101). -/
def execJp (nnn : BitVec 12) (s : State) : Result := .next (s.setPc (addr16 nnn))

/-- CALL nnn (R102): the advanced PC is pushed. -/
def execCall (nnn : BitVec 12) (s : State) : Result := s.push s.pc fun t => t.setPc (addr16 nnn)

/-- RET (R100). -/
def execRet (s : State) : Result := s.pop fun w t => t.setPc w

/-- SE Vx,nn (R103). -/
def execSeImm (x : Fin 16) (nn : Byte) (s : State) : Result := .next (s.skipIf (s.reg x == nn))

/-- SNE Vx,nn (R104). -/
def execSneImm (x : Fin 16) (nn : Byte) (s : State) : Result := .next (s.skipIf (s.reg x != nn))

/-- SE Vx,Vy (R105). -/
def execSeReg (x y : Fin 16) (s : State) : Result := .next (s.skipIf (s.reg x == s.reg y))

/-- SNE Vx,Vy (R106). -/
def execSneReg (x y : Fin 16) (s : State) : Result := .next (s.skipIf (s.reg x != s.reg y))

/-- JP V0,nnn (R107): the sum is neither reduced nor checked. -/
def execJpV0 (nnn : BitVec 12) (s : State) : Result :=
  .next (s.setPc (addr16 nnn + (s.jumpOffset nnn).setWidth 16))

end Sys2Proof.Machine
end

