-- ==== Sys2Proof/Machine/Display.lean ====
section
/-! DEFINITION. The display instructions of spec/44_display.md. DRW is written as one update of the whole buffer, since no pixel is
visited twice and the order of rows and columns cannot be observed (R141 (f), log entry 20); the loop of the rule stands in
Sys2Proof/Safety.lean, where a statement says that the two agree. -/

namespace Sys2Proof.Machine

/-- The starting column, V[x] mod 64 (R141 step 1). -/
def State.drawCol (x : Fin 16) (s : State) : Nat := (s.reg x).toNat % 64

/-- The starting row, V[y] mod 32 (R141 step 1). -/
def State.drawRow (y : Fin 16) (s : State) : Nat := (s.reg y).toNat % 32

/-- The rows actually drawn (R141 step 2). -/
def drawRows (n y0 : Nat) : Nat := min n (32 - y0)

/-- The sprite drawn at (x0, y0) with `rows` rows sets the bit of the pixel in row `py` and column `px`: bit 7 of a byte is the
starting column (R142, the spec's decision D12). -/
def State.spriteBit (s : State) (x0 y0 rows : Nat) (py : Fin 32) (px : Fin 64) : Bool :=
  decide (y0 ≤ py.val) && decide (py.val < y0 + rows) && decide (x0 ≤ px.val) && decide (px.val < x0 + 8) &&
    (s.memRead (s.indexPlus (py.val - y0))).getLsbD (7 - (px.val - x0))

/-- The buffer after the draw: each pixel under a set sprite bit is inverted (R141 step 5). -/
def State.drawn (s : State) (x0 y0 rows : Nat) : Vector (Vector Bool 64) 32 :=
  Vector.ofFn fun py => Vector.ofFn fun px => s.fb[py][px] != s.spriteBit x0 y0 rows py px

/-- The collision flag: some pixel goes from set to unset (R141 steps 4 to 6). -/
def State.collides (s : State) (x0 y0 rows : Nat) : Bool :=
  (List.finRange 32).any fun py => (List.finRange 64).any fun px => s.spriteBit x0 y0 rows py px && s.fb[py][px]

/-- The sprite drawn, the collision flag in VF, the display dirty (R141 steps 5 to 7). -/
def State.drawSprite (x0 y0 rows : Nat) (s : State) : State :=
  ((s.setFb (s.drawn x0 y0 rows)).setFlag (s.collides x0 y0 rows)).setDirty true

/-- CLS (R140). -/
def execCls (s : State) : Result :=
  .next ((s.setFb (Vector.replicate 32 (Vector.replicate 64 false))).setDirty true)

/-- DRW Vx,Vy,n (R141): a draw of no row reads nothing and raises nothing; rows clipped at the bottom are not read. -/
def execDrw (x y : Fin 16) (n : Nat) (s : State) : Result :=
  if drawRows n (s.drawRow y) = 0 then .next (s.drawSprite (s.drawCol x) (s.drawRow y) 0)
  else s.boundsChecked (s.indexPlus (drawRows n (s.drawRow y) - 1))
    (s.drawSprite (s.drawCol x) (s.drawRow y) (drawRows n (s.drawRow y)))

end Sys2Proof.Machine
end

