-- ==== Sys2Proof/Machine/IndexRandom.lean ====
section
/-! DEFINITION. The index-register and random instructions of spec/43_index_random.md. -/

namespace Sys2Proof.Machine

/-- LD I,nnn (R130). -/
def execLdI (nnn : BitVec 12) (s : State) : Result := .next (s.setIndex (addr16 nnn))

/-- ADD I,Vx (R131): modulo 0x1000 with the flag, or modulo 0x10000 without it when `Q_INDEX_OVF` is false. -/
def execAddI (x : Fin 16) (s : State) : Result :=
  if s.cfg.qIndexOvf then
    .next ((s.setIndex (BitVec.ofNat 16 (s.indexSum x % 0x1000))).setFlag (indexOut (s.indexSum x)))
  else .next (s.setIndex (BitVec.ofNat 16 (s.indexSum x % 0x10000)))

/-- RND Vx,nn (R132): the low byte of a fresh draw, masked. -/
def execRnd (x : Fin 16) (nn : Byte) (s : State) : Result :=
  .next ((s.setReg x ((Config.rand16 s.draws).setWidth 8 &&& nn)).bumpDraws)

end Sys2Proof.Machine
end

