-- ==== Sys2Proof/Machine/KeypadTimers.lean ====
section
/-! DEFINITION. The keypad and timer instructions of spec/45_keypad_timers.md. -/

namespace Sys2Proof.Machine

/-- The key test SKP and SKNP share: KeyOutOfRange when V[x] is no hex digit (R186), otherwise a skip when the key's state is
`down` (R150, R151). -/
def State.skipOnKey (x : Fin 16) (down : Bool) (s : State) : Result :=
  if 0x0F < (s.reg x).toNat then s.raise (.keyOutOfRange (s.reg x))
  else .next (s.skipIf (s.keys.getLsbD (s.reg x).toNat == down))

/-- SKP Vx (R150). -/
def execSkp (x : Fin 16) (s : State) : Result := s.skipOnKey x true

/-- SKNP Vx (R151). -/
def execSknp (x : Fin 16) (s : State) : Result := s.skipOnKey x false

/-- LD Vx,K (R152): with no key down PC goes back by 2 and nothing else changes; otherwise V[x] is the number of a key that is
down. -/
def execLdKey (x : Fin 16) (s : State) : Result :=
  if s.keys = 0#16 then .next (s.setPc (s.pc - 2))
  else .next ((s.setReg x (BitVec.ofNat 8 s.reportedKey.val)).bumpDraws)

/-- LD Vx,DT (R153). -/
def execLdFromDt (x : Fin 16) (s : State) : Result := .next (s.setReg x s.dt)

/-- LD DT,Vx (R154). -/
def execLdDt (x : Fin 16) (s : State) : Result := .next (s.setDt (s.reg x))

/-- LD ST,Vx (R155). -/
def execLdSt (x : Fin 16) (s : State) : Result := .next (s.setSt (s.reg x))

end Sys2Proof.Machine
end

