-- ==== Sys2Proof/Machine/MemoryTransfer.lean ====
section
/-! DEFINITION. The font address, BCD and block transfer instructions of spec/46_memory_transfer.md. I is never changed by a
transfer, and the bounds of a transfer are checked before any effect (spec/20_memory.md R45). -/

namespace Sys2Proof.Machine

/-- LD B,Vx (R161). -/
def execLdB (x : Fin 16) (s : State) : Result :=
  s.boundsChecked (s.indexPlus 2) (s.memWriteBytes (s.indexPlus 0) (bcdDigits (s.reg x)))

/-- LD [I],Vx (R162): `x` is the number of the last register stored. -/
def execLdStore (x : Fin 16) (s : State) : Result :=
  s.boundsChecked (s.indexPlus x.val) (s.memWriteBytes (s.indexPlus 0) (s.firstRegs x))

/-- LD Vx,[I] (R163). -/
def execLdLoad (x : Fin 16) (s : State) : Result :=
  s.boundsChecked (s.indexPlus x.val) (s.setRegs (s.loadedRegs x))

/-- LD F,Vx (R160): DigitOutOfRange when V[x] is no hex digit (R187). -/
def execLdF (x : Fin 16) (s : State) : Result :=
  if 0x0F < (s.reg x).toNat then s.raise (.digitOutOfRange (s.reg x)) else .next (s.setIndex (s.glyphAddr (s.reg x)))

end Sys2Proof.Machine
end

