-- ==== Sys2Proof/Machine/HostOps.lean ====
section
/-! DEFINITION. The operations of the tick and of the host (spec/40_step_and_host_ops.md R81 to R83, R87 to R89) and the outputs
(spec/10_state.md R23). -/

namespace Sys2Proof.Machine

/-- One counter of `tick_timers`: down by one, floored at 0 (R87). -/
def tickDown (b : Byte) : Byte := if b = 0#8 then 0#8 else b - 1#8

/-- `tick_timers()` (R87); ERR does not disable it. -/
def State.tickTimers (s : State) : State := (s.setDt (tickDown s.dt)).setSt (tickDown s.st)

/-- The consumer's dirty-clear (R88). -/
def State.clearDirty (s : State) : State := s.setDirty false

/-- `initialize()` (R82): the 80 font bytes and nothing else. -/
def State.initFont (s : State) : State := s.memWriteBytes s.cfg.fontBase s.cfg.fontGlyphs.toList

/-- `load_program(bytes)` (R83): the bytes from 0x200 on, PC to 0x200; more than 3584 bytes are refused as the operation's
result, which changes no state and does not latch ERR (R198). -/
def State.loadProgram (bytes : List Byte) (s : State) : Except Error State :=
  if 3584 < bytes.length then .error .programTooLarge else .ok ((s.memWriteBytes 0x200 bytes).setPc 0x200)

/-- Reset by the host (R81): the machine is constructed anew with its parameters. The key states are an input and stay; the
model's own fields stay (log entry 6). -/
def State.hostReset (s : State) : State :=
  { State.construct s.cfg s.keys with agenda := s.agenda, draws := s.draws }

/-- The output `sound_active` (R23). -/
def State.soundActive (s : State) : Bool := s.st != 0

/-- The output pixel FB[y][x] (R17, R23). -/
def State.pixel (s : State) (y : Fin 32) (x : Fin 64) : Bool := s.fb[y][x]

end Sys2Proof.Machine
end

