-- ==== Sys2Proof/Machine/Execute.lean ====
section
/-! DEFINITION. `decode_execute`, the core's Step and the turns of the three agents (spec/40_step_and_host_ops.md R80, R85, R86, R92,
R93), and how a word is placed for the next Step. -/

namespace Sys2Proof.Machine

/-- `decode_execute(w)` (R85): no transition while ERR is latched (R93); an unknown word raises UnknownOpcode (R182); otherwise
the instruction's rule. -/
def State.decodeExecute (w : Word) (s : State) : Result :=
  match s.err with
  | some e => .fault (.halted e)
  | none =>
    match decode w with
    | .error f => s.raise (.unknownOpcode w f)
    | .ok i => exec i s

/-- Step (R86): `fetch`, and when it did not raise, `decode_execute` of the fetched word. -/
def State.coreStep (s : State) : Result :=
  match s.err with
  | some e => .fault (.halted e)
  | none =>
    match s.fetch with
    | (some w, t) => t.decodeExecute w
    | (none, t) => .next t

/-- What the core does when it is asked for an operation: a halted core has no transition, so that turn passes and the other
agents go on (R93, log entry 1). -/
def State.unlessHalted (s : State) (r : Result) : Result := if s.err.isSome then .next s else r

/-- One operation of one agent. The word that `fetch` returns goes to its caller and is no state (log entry 2); a refused load
changes nothing (R198). -/
def State.runTurn (turn : Turn) (s : State) : Result :=
  match turn with
  | .core => s.unlessHalted s.coreStep
  | .fetch => .next s.fetch.2
  | .decodeExecute w => s.unlessHalted (s.decodeExecute w)
  | .tick => .next s.tickTimers
  | .keys k => .next (s.setKeys k)
  | .clearDirty => .next s.clearDirty
  | .initFont => .next s.initFont
  | .loadProgram bytes =>
    match s.loadProgram bytes with
    | .ok t => .next t
    | .error _ => .next s
  | .reset => .next s.hostReset

/-- The next operation: the first of the agenda, and with nothing waiting a Step of the core (R92, log entry 2). -/
def State.nextTurn (s : State) : Result :=
  match s.agenda with
  | [] => s.coreStep
  | turn :: rest => (s.setAgenda rest).runTurn turn

/-- The state in which the next operation is a Step of the core that fetches these bytes: they are stored at PC, nothing is
waiting, and ERR is clear (log entry 19). With PC at or beyond 0xFFF there is no place for an instruction. -/
def State.placeAtPc (bs : List Byte) (s : State) : State :=
  ((s.memWriteBytes s.pc.toNat bs).setAgenda []).setErr none

end Sys2Proof.Machine
end

