-- ==== Sys2Proof/Machine/Step.lean ====
section
/-! DEFINITION. The step: one operation of one agent (spec/40_step_and_host_ops.md R92), and the placing of a table word for it. -/

namespace Sys2Proof.Machine

/-- One step of the machine: the next operation of the agenda, or a Step of the core. -/
def step (s : State) : Host.Outcome State Fault Refusal := s.nextTurn

/-- The state whose very next step fetches and runs the table word: its two bytes at PC, as the hardware stores them. -/
def State.withFetchWord (s : State) (nbits w : Nat) : State := s.placeAtPc (tableBytes nbits w)

end Sys2Proof.Machine
end

