-- ==== Sys2Proof/Safety.lean ====
section
/-! DEFINITION. What the claims are stated in: the error an instruction raises (spec/60_exceptions.md R183 to R187), the invariants of
spec/10_state.md R26, which register an instruction names as its destination and which write the flag (R10, R11), and the loop of
DRW as spec/44_display.md R141 writes it. -/

namespace Sys2Proof.Machine

/-- The error, if any, that the rule of an instruction raises in a state, as the spec lists them: RET R183, CALL R184, the
data accesses R185 with the highest offending address, the key tests R186, the font address R187; every other instruction none (R190). -/
def errorOf (i : Instr) (s : State) : Option Error :=
  match i with
  | .ret => if s.stack = [] then some .stackUnderflow else none
  | .call _ => if s.stack.length < s.cfg.stackDepth then none else some .stackOverflow
  | .drw _ y n =>
    if 0 < min n (32 - (s.reg y).toNat % 32) ∧ 0x1000 ≤ s.index.toNat + min n (32 - (s.reg y).toNat % 32) - 1 then
      some (.dataOutOfBounds (s.index.toNat + min n (32 - (s.reg y).toNat % 32) - 1))
    else none
  | .ldB _ => if 0x1000 ≤ s.index.toNat + 2 then some (.dataOutOfBounds (s.index.toNat + 2)) else none
  | .ldStore x => if 0x1000 ≤ s.index.toNat + x.val then some (.dataOutOfBounds (s.index.toNat + x.val)) else none
  | .ldLoad x => if 0x1000 ≤ s.index.toNat + x.val then some (.dataOutOfBounds (s.index.toNat + x.val)) else none
  | .skp x => if (s.reg x).toNat ≤ 15 then none else some (.keyOutOfRange (s.reg x))
  | .sknp x => if (s.reg x).toNat ≤ 15 then none else some (.keyOutOfRange (s.reg x))
  | .ldF x => if (s.reg x).toNat ≤ 15 then none else some (.digitOutOfRange (s.reg x))
  | .jp _ | .seImm _ _ | .sneImm _ _ | .seReg _ _ | .sneReg _ _ | .jpV0 _ | .ldImm _ _ | .addImm _ _
  | .ldReg _ _ | .orReg _ _ | .andReg _ _ | .xorReg _ _ | .addReg _ _ | .subReg _ _ | .shr _ _ | .subn _ _ | .shl _ _
  | .ldI _ | .addI _ | .rnd _ _ | .cls | .ldKey _ | .ldFromDt _ | .ldDt _ | .ldSt _ => none

end Sys2Proof.Machine

namespace Sys2Proof

/-- The general registers an instruction names as its destination (R10 and the rules of the instructions). -/
def Instr.names (i : Instr) (k : Fin 16) : Prop :=
  match i with
  | .ldImm x _ | .addImm x _ | .rnd x _ | .ldKey x | .ldFromDt x => k = x
  | .ldReg x _ | .orReg x _ | .andReg x _ | .xorReg x _ | .addReg x _ | .subReg x _ | .shr x _ | .subn x _ | .shl x _ => k = x
  | .ldLoad x => k.val ≤ x.val
  | .jp _ | .call _ | .ret | .seImm _ _ | .sneImm _ _ | .seReg _ _ | .sneReg _ _ | .jpV0 _ | .ldI _ | .addI _ | .drw _ _ _
  | .cls | .skp _ | .sknp _ | .ldDt _ | .ldSt _ | .ldB _ | .ldStore _ | .ldF _ => False

/-- The seven instructions that define flag semantics and so write VF (R11); ADD I,Vx under `Q_INDEX_OVF` only. -/
def Instr.definesFlag (i : Instr) (c : Config) : Prop :=
  match i with
  | .addReg _ _ | .subReg _ _ | .shr _ _ | .subn _ _ | .shl _ _ | .drw _ _ _ => True
  | .addI _ => c.qIndexOvf = true
  | .ldImm _ _ | .addImm _ _ | .rnd _ _ | .ldKey _ | .ldFromDt _ | .ldReg _ _ | .orReg _ _ | .andReg _ _ | .xorReg _ _
  | .ldLoad _ | .jp _ | .call _ | .ret | .seImm _ _ | .sneImm _ _ | .seReg _ _ | .sneReg _ _ | .jpV0 _ | .ldI _
  | .cls | .skp _ | .sknp _ | .ldDt _ | .ldSt _ | .ldB _ | .ldStore _ | .ldF _ => False

end Sys2Proof

namespace Sys2Proof.Machine

/-- What every operation keeps: the canonical form of memory, sound parameters, I within 12 bits under `Q_INDEX_OVF` (R26 (a)) and
the stack within its depth (R26 (e)). -/
abbrev State.Inv (s : State) : Prop :=
  s.mem.wf = true ∧ s.cfg.wellFormed = true ∧ (s.cfg.qIndexOvf = true → s.index.toNat ≤ 0x0FFF) ∧ s.stack.length ≤ s.cfg.stackDepth

/-- The operation is no `decode_execute` called on its own. -/
def Turn.notDirect : Turn → Bool
  | .decodeExecute _ => false
  | .core | .fetch | .tick | .keys _ | .clearDirty | .initFont | .loadProgram _ | .reset => true

/-- What R26 says of states reached through Step, and not through a `decode_execute` called on its own with an arbitrary PC: every
stack entry is in 2..0x1000 (b) and PC is at most 0x10FE (c); no such call is waiting. -/
abbrev State.StepInv (s : State) : Prop :=
  s.agenda.all Turn.notDirect = true ∧
    (s.stack.all fun w => decide (2 ≤ w.toNat) && decide (w.toNat ≤ 0x1000)) = true ∧ s.pc.toNat ≤ 0x10FE

/-- The same answer with its next state changed by `f`; used to say that a piece of state is not read. -/
def mapNext (f : State → State) (r : Result) : Result :=
  match r with
  | .next t => .next (f t)
  | .fault e => .fault e
  | .refused e => .refused e

/-- The sprite of DRW Vx,Vy,n has a set bit over the pixel in row `py` and column `px`, and that pixel is not clipped away
(R141, R142). -/
abbrev spriteOver (s : State) (x y : Fin 16) (n : Nat) (py : Fin 32) (px : Fin 64) : Prop :=
  (s.reg y).toNat % 32 ≤ py.val ∧ py.val < (s.reg y).toNat % 32 + n ∧
    (s.reg x).toNat % 64 ≤ px.val ∧ px.val < (s.reg x).toNat % 64 + 8 ∧
    (s.memRead (s.index.toNat + (py.val - (s.reg y).toNat % 32))).getLsbD (7 - (px.val - (s.reg x).toNat % 64)) = true

/-! ## The loop of DRW (R141 steps 4 and 5), as the rule writes it -/

/-- One pixel of a buffer; false outside it. -/
def pixelAt (fb : Vector (Vector Bool 64) 32) (py px : Nat) : Bool :=
  if h : py < 32 ∧ px < 64 then fb[py][px] else false

/-- The buffer with one pixel inverted. -/
def invertPixel (fb : Vector (Vector Bool 64) 32) (py px : Nat) : Vector (Vector Bool 64) 32 :=
  if h : py < 32 ∧ px < 64 then fb.set py (fb[py].set px (!fb[py][px])) else fb

/-- The columns `c`, `c + 1`, ... of one row of the sprite, `left` of them: a column beyond 63 breaks the row; a set bit over a
set pixel is a hit; a set bit inverts its pixel. -/
def ruleColumns (b : Byte) (x0 py : Nat) : (left c : Nat) → Vector (Vector Bool 64) 32 × Bool → Vector (Vector Bool 64) 32 × Bool
  | 0, _, acc => acc
  | left + 1, c, (fb, hit) =>
    if 63 < x0 + c then (fb, hit)
    else if b.getLsbD (7 - c) then
      ruleColumns b x0 py left (c + 1) (invertPixel fb py (x0 + c), hit || pixelAt fb py (x0 + c))
    else ruleColumns b x0 py left (c + 1) (fb, hit)

/-- The rows `r`, `r + 1`, ... of the sprite, `left` of them, the byte of row r read at I + r. -/
def ruleRows (s : State) (x0 y0 : Nat) : (left r : Nat) → Vector (Vector Bool 64) 32 × Bool → Vector (Vector Bool 64) 32 × Bool
  | 0, _, acc => acc
  | left + 1, r, acc => ruleRows s x0 y0 left (r + 1) (ruleColumns (s.memRead (s.index.toNat + r)) x0 (y0 + r) 8 0 acc)

/-- DRW Vx,Vy,n by the seven steps of R141. -/
def ruleDraw (x y : Fin 16) (n : Nat) (s : State) : State :=
  let x0 := (s.reg x).toNat % 64
  let y0 := (s.reg y).toNat % 32
  let rows := min n (32 - y0)
  if 0 < rows ∧ 0x0FFF < s.index.toNat + rows - 1 then { s with err := some (.dataOutOfBounds (s.index.toNat + rows - 1)) }
  else
    let out := ruleRows s x0 y0 rows 0 (s.fb, false)
    { s with fb := out.1, v := s.v.set 15 (if out.2 then 1 else 0), dirty := true }

end Sys2Proof.Machine
end

