-- ==== Sys2Proof/Certificates/Slice0/Obligations.lean ====
section
/-! DEFINITION. The statements for the provers, from the numbered rules of spec/. Where a statement rests on a choice that the spec
marks as its own (a decision D<n>, a passage from general knowledge) or that a log entry names, its docstring says so. -/

open Sys2Proof Sys2Proof.Machine

/-! ## Encoding -/

/-- R73, R74: decoding the word, or the two bytes in memory order, of any well-formed instruction gives it back. The opcode
numbers are the spec's general knowledge (log entry 10). -/
def Obligations.DecodeOfEncode : Prop :=
  ∀ i : Instr, i.wellFormed = true →
    decode (encode i) = .ok i ∧ ∀ rest, decodeBytes (encodeBytes i ++ rest) = .ok (i, rest)

/-- R74: each valid word has one meaning, since the encoder gives the word back from what it decodes to. The opcode numbers are the
spec's general knowledge (log entry 10), and which words are valid its decision D5 (log entry 11). -/
def Obligations.EncodeOfDecode : Prop :=
  ∀ (w : Word) (i : Instr), decode w = .ok i → i.wellFormed = true ∧ encode i = w

/-- R73: a word decodes to an instruction of a row exactly when the row's match and mask accept it; so no two rows overlap and no
accepted word is refused. The opcode numbers are the spec's general knowledge (log entry 10), the full-mask matching its decision D5
(log entry 11). -/
def Obligations.DecodeAgreesWithTheTableRows : Prop :=
  (∀ (w : Word) (i : Instr), decode w = .ok i → (tableRow i).accepts w = true) ∧
    ∀ (w : Word) (i : Instr), (tableRow i).accepts w = true → ∃ j, decode w = .ok j ∧ tableRow j = tableRow i

/-- R65 to R70: the words that are no instruction, and the failing field each is reported with (the spec's decisions D5, D6, log
entry 11). The `op` and selector numbers are the spec's general knowledge, its decision D4 (log entry 10). -/
def Obligations.UnknownWordsNameTheirField : Prop :=
  ∀ (w : Word) (f : FailingField), decode w = .error f ↔
    (fieldOp w = 0 ∧ w ≠ 0x00E0 ∧ w ≠ 0x00EE ∧ f = .nnn) ∨
    ((fieldOp w = 5 ∨ fieldOp w = 9) ∧ fieldN w ≠ 0 ∧ f = .n) ∨
    (fieldOp w = 8 ∧ fieldN w ∈ [0x8, 0x9, 0xA, 0xB, 0xC, 0xD, 0xF] ∧ f = .n) ∨
    (fieldOp w = 0xE ∧ (fieldNn w).toNat ∉ [0x9E, 0xA1] ∧ f = .nn) ∨
    (fieldOp w = 0xF ∧ (fieldNn w).toNat ∉ [0x07, 0x0A, 0x15, 0x18, 0x1E, 0x29, 0x33, 0x55, 0x65] ∧ f = .nn)

/-- Words of spec/95_test_vectors.md section 2.1, one of each family and three unknown ones. The opcode numbers are the spec's general
knowledge (log entry 10); that the unknown words are refused, and with which field, is the spec's decisions D5, D6 (log entry 11). -/
def Obligations.SampleWordsDecode : Prop :=
  decode 0x1234 = .ok (.jp 0x234) ∧ decode 0x5120 = .ok (.seReg 1 2) ∧ decode 0x8ABE = .ok (.shl 10 11) ∧
    decode 0xF11E = .ok (.addI 1) ∧ decode 0xD000 = .ok (.drw 0 0 0) ∧ decode 0xE3A1 = .ok (.sknp 3) ∧
    decode 0xFF65 = .ok (.ldLoad 15) ∧ decode 0x0ABC = .error .nnn ∧ decode 0x8AB9 = .error .n ∧ decode 0xFFFF = .error .nn

/-! ## Fetch and step -/

/-- R42: the byte at PC is the more significant half of the word fetched; PC advances by 2 and nothing else changes. -/
def Obligations.FetchReadsBigEndian : Prop :=
  ∀ s : State, s.err = none → s.pc.toNat ≤ 0xFFE →
    ∃ w t, s.fetch = (some w, t) ∧ w = (s.memRead s.pc.toNat ++ s.memRead (s.pc.toNat + 1) : BitVec 16) ∧
      w.toNat = (s.memRead s.pc.toNat).toNat <<< 8 ||| (s.memRead (s.pc.toNat + 1)).toNat ∧
      t.pc.toNat = s.pc.toNat + 2 ∧ t = { s with pc := t.pc }

/-- R46: a fetch succeeds when PC is at most 0xFFE and raises OutOfBounds for every larger PC. -/
def Obligations.FetchFailsFromTheLastByte : Prop :=
  ∀ s : State, s.err = none →
    (s.pc.toNat ≤ 0xFFE → ∃ w t, s.fetch = (some w, t) ∧ t.err = none) ∧
    (0xFFF ≤ s.pc.toNat → ∃ t, s.fetch = (none, t) ∧ t.err = some (.outOfBounds s.pc))

/-- R86: with nothing waiting, or a Step of the core waiting, a step runs the instruction decoded at PC on the state with PC
advanced by 2 (the agenda is the model's own, log entry 2). -/
def Obligations.StepRunsDecodedInstruction : Prop :=
  ∀ (s : State) (i : Instr), s.err = none → s.pc.toNat ≤ 0xFFE →
    decode (wordOfBytes (s.memRead s.pc.toNat) (s.memRead (s.pc.toNat + 1))) = .ok i →
    (s.agenda = [] → step s = exec i { s with pc := s.pc + 2 }) ∧
    ∀ rest, s.agenda = .core :: rest → step s = exec i { s with pc := s.pc + 2, agenda := rest }

/-- R70, R84, R86, R181, R182: a step whose fetch fails latches OutOfBounds with PC and keeps PC; one that fetches an unknown word
latches UnknownOpcode with the word and its failing field, and the fetch's advance stands; nothing else changes (the spec's
decision D17).
D17 is log entry 21; the failing field is D6 (log entry 11). -/
def Obligations.StepRaisesTheErrorsOfFetchAndDecode : Prop :=
  ∀ s : State, s.agenda = [] → s.err = none →
    (0xFFF ≤ s.pc.toNat → step s = .next { s with err := some (.outOfBounds s.pc) }) ∧
    (s.pc.toNat ≤ 0xFFE → ∀ f,
      decode (wordOfBytes (s.memRead s.pc.toNat) (s.memRead (s.pc.toNat + 1))) = .error f →
      step s = .next { s with
        pc := s.pc + 2
        err := some (.unknownOpcode (wordOfBytes (s.memRead s.pc.toNat) (s.memRead (s.pc.toNat + 1))) f) })

/-- R93: a halted core has no `fetch`, no `decode_execute` and no Step; in the model a step in which only the core could act answers
the fault `halted`, and an operation of the core asked for in the agenda passes without effect (log entry 1). The latch is the
spec's decision D16 (log entry 27). -/
def Obligations.HaltedCoreHasNoStep : Prop :=
  ∀ (s : State) (e : Error), s.err = some e →
    (s.agenda = [] → step s = .fault (.halted e)) ∧
    (∀ w, s.decodeExecute w = .fault (.halted e)) ∧ s.fetch = (none, s) ∧
    ∀ rest, (s.agenda = .core :: rest ∨ s.agenda = .fetch :: rest ∨ ∃ w, s.agenda = .decodeExecute w :: rest) →
      step s = .next { s with agenda := rest }

/-- R85: `decode_execute` of any word on a core that is not halted is the instruction's rule, or UnknownOpcode. -/
def Obligations.DecodeExecuteOnAnyWord : Prop :=
  ∀ (w : Word) (s : State), s.err = none →
    (∀ i, decode w = .ok i → s.decodeExecute w = exec i s) ∧
    ∀ f, decode w = .error f → s.decodeExecute w = .next { s with err := some (.unknownOpcode w f) }

/-! ## Errors -/

/-- R93, R189, R197: in a halted core no step but reset clears ERR or changes a register, I, the stack or the display; the other
agents act on the rest (the latch is the spec's decision D16, log entry 27). -/
def Obligations.OnlyResetEndsAHalt : Prop :=
  ∀ (s t : State) (e : Error), s.err = some e → step s = .next t →
    (∃ rest, s.agenda = .reset :: rest) ∨
      (t.err = some e ∧ t.v = s.v ∧ t.index = s.index ∧ t.stack = s.stack ∧ t.fb = s.fb ∧ t.cfg = s.cfg)

/-- R183 to R187, R190: an instruction raises exactly the error the rules list, with its payload, and then ERR alone changes
(R188, the spec's decision D17); in every other state it completes with ERR as it was.
The stack's bound is the spec's decision D3 (log entry 13), and the errors of data accesses, keys and digits its decisions D8, D9,
D10 (log entry 14). That rows of a draw clipped at the bottom raise nothing (R141) is its decision D27 (log entry 18), and that ERR
alone changes is log entry 21. -/
def Obligations.ErrorsRaisedExactlyWhenListed : Prop :=
  ∀ (i : Instr) (s : State),
    (∀ e, errorOf i s = some e → exec i s = .next { s with err := some e }) ∧
    (errorOf i s = none → ∃ t, exec i s = .next t ∧ t.err = s.err)

/-- R183: StackUnderflow is raised by RET exactly when the stack is empty, and by no other instruction. -/
def Obligations.StackUnderflowExactlyOnEmptyReturn : Prop :=
  ∀ (i : Instr) (s : State), s.err = none →
    ((∃ t, exec i s = .next t ∧ t.err = some .stackUnderflow) ↔ i = .ret ∧ s.stack = [])

/-! ## What may change what -/

/-- R12, R14, R17, R40: which instructions change the display, memory, the stack and I: CLS and DRW; LD B and LD [I]; CALL by
pushing PC and RET by popping; LD I, ADD I and LD F. -/
def Obligations.EachPartIsChangedOnlyByItsInstructions : Prop :=
  ∀ (i : Instr) (s t : State), exec i s = .next t →
    (t.fb ≠ s.fb ∨ t.dirty ≠ s.dirty → i = .cls ∨ ∃ x y n, i = .drw x y n) ∧
    (t.mem ≠ s.mem → ∃ x, i = .ldB x ∨ i = .ldStore x) ∧
    (t.stack ≠ s.stack →
      (∃ nnn, i = .call nnn ∧ t.stack = s.pc :: s.stack) ∨ (i = .ret ∧ ∃ w, s.stack = w :: t.stack)) ∧
    (t.index ≠ s.index → (∃ nnn, i = .ldI nnn) ∨ ∃ x, i = .addI x ∨ i = .ldF x)

/-- R10, R11: a general register other than VF changes only as a named destination; VF changes only as a named destination or
by one of the seven instructions that define the flag. -/
def Obligations.RegistersChangedOnlyByDestinations : Prop :=
  ∀ (i : Instr) (s t : State) (k : Fin 16), exec i s = .next t → t.reg k ≠ s.reg k →
    i.names k ∨ (k = 15 ∧ i.definesFlag s.cfg)

/-- R11, R122: an instruction that defines the flag and raises no error leaves VF exactly 0 or 1, whatever its operands.
That the flag is written last and that ADD I writes 0 are the spec's decisions D7, D13 (log
entries 15, 17). -/
def Obligations.FlagIsAlwaysZeroOrOne : Prop :=
  ∀ (i : Instr) (s : State), i.definesFlag s.cfg → errorOf i s = none →
    ∃ t, exec i s = .next t ∧ (t.reg 15 = 0 ∨ t.reg 15 = 1)

/-- R13, R107: the only ways an instruction changes PC; the offset of JP V0 is V0, or V[x] with x the address's upper nibble under
the quirk (the spec's decision D14, log entry 17). -/
def Obligations.PcChangedOnlyAsListed : Prop :=
  ∀ (i : Instr) (s t : State), exec i s = .next t → t.pc ≠ s.pc →
    (∃ nnn, (i = .jp nnn ∨ i = .call nnn) ∧ t.pc.toNat = nnn.toNat) ∨
    (i = .ret ∧ s.stack = t.pc :: t.stack) ∨
    ((∃ x nn, i = .seImm x nn ∨ i = .sneImm x nn) ∧ t.pc = s.pc + 2) ∨
    ((∃ x y, i = .seReg x y ∨ i = .sneReg x y) ∧ t.pc = s.pc + 2) ∨
    ((∃ x, i = .skp x ∨ i = .sknp x) ∧ t.pc = s.pc + 2) ∨
    (∃ nnn, i = .jpV0 nnn ∧
      t.pc.toNat = nnn.toNat + (s.reg (if s.cfg.qJumpVx then addrReg nnn else 0)).toNat) ∨
    (∃ x, i = .ldKey x ∧ s.keys = 0#16 ∧ t.pc = s.pc - 2)

/-- R24, R21, R90: no instruction changes the parameters, the key input or the agenda, and only RND and LD Vx,K take a free
value (`agenda` and `draws` are the model's own, log entries 2, 7, 8). -/
def Obligations.ExecKeepsInputsAndParameters : Prop :=
  ∀ (i : Instr) (s t : State), exec i s = .next t →
    t.cfg = s.cfg ∧ t.keys = s.keys ∧ t.agenda = s.agenda ∧
      (t.draws ≠ s.draws → (∃ x nn, i = .rnd x nn) ∨ ∃ x, i = .ldKey x)

/-- R15: DT is written by LD DT and read by LD Vx,DT alone; a tick takes it down by one and never below 0; no other instruction
writes it, and none but LD Vx,DT behaves differently for another DT. -/
def Obligations.DelayTimerIsReadAndWrittenAsStated : Prop :=
  (∀ x s, ∃ t, exec (.ldDt x) s = .next t ∧ t.dt = s.reg x ∧ t = { s with dt := t.dt }) ∧
  (∀ x s, ∃ t, exec (.ldFromDt x) s = .next t ∧ t.reg x = s.dt ∧ t = { s with v := t.v } ∧ ∀ k, k ≠ x → t.reg k = s.reg k) ∧
  (∀ s : State, s.tickTimers.dt.toNat = s.dt.toNat - 1) ∧
  (∀ (i : Instr) (s t : State), exec i s = .next t → t.dt ≠ s.dt → ∃ x, i = .ldDt x) ∧
  ∀ (i : Instr) (s : State) (d : Byte), (∀ x, i ≠ .ldDt x) → (∀ x, i ≠ .ldFromDt x) →
    exec i { s with dt := d } = mapNext (fun t => { t with dt := d }) (exec i s)

/-- R16: ST is written by LD ST alone; a tick takes it down by one and never below 0; no instruction reads it; its only effect is
the output `sound_active`. -/
def Obligations.SoundTimerIsReadAndWrittenAsStated : Prop :=
  (∀ x s, ∃ t, exec (.ldSt x) s = .next t ∧ t.st = s.reg x ∧ t = { s with st := t.st }) ∧
  (∀ s : State, s.tickTimers.st.toNat = s.st.toNat - 1) ∧
  (∀ (i : Instr) (s t : State), exec i s = .next t → t.st ≠ s.st → ∃ x, i = .ldSt x) ∧
  (∀ s : State, s.soundActive = true ↔ s.st.toNat ≠ 0) ∧
  ∀ (i : Instr) (s : State) (d : Byte), (∀ x, i ≠ .ldSt x) →
    exec i { s with st := d } = mapNext (fun t => { t with st := d }) (exec i s)

/-- R18: DIRTY is set by every CLS and by every DRW that completes without error, cleared only by the dirty-clear and by reset,
and read by no instruction. -/
def Obligations.DirtyFlagIsSetAndClearedAsStated : Prop :=
  (∀ s, ∃ t, exec .cls s = .next t ∧ t.dirty = true) ∧
  (∀ x y n s, errorOf (.drw x y n) s = none → ∃ t, exec (.drw x y n) s = .next t ∧ t.dirty = true) ∧
  (∀ s t : State, step s = .next t → s.dirty = true → t.dirty = false →
    ∃ rest, s.agenda = .clearDirty :: rest ∨ s.agenda = .reset :: rest) ∧
  (∀ (s : State) rest, s.agenda = .clearDirty :: rest ∨ s.agenda = .reset :: rest →
    ∃ t, step s = .next t ∧ t.dirty = false) ∧
  (∀ (i : Instr) (s : State) (d : Bool), i ≠ .cls → (∀ x y n, i = .drw x y n → errorOf i s ≠ none) →
    exec i { s with dirty := d } = mapNext (fun t => { t with dirty := d }) (exec i s)) ∧
  ∀ (i : Instr) (s : State) (d : Bool), i = .cls ∨ (∃ x y n, i = .drw x y n) ∧ errorOf i s = none →
    exec i { s with dirty := d } = exec i s

/-- R21, R89: no instruction but SKP, SKNP and LD Vx,K behaves differently for other key states. -/
def Obligations.KeysReadOnlyByTheirInstructions : Prop :=
  ∀ (i : Instr) (s : State) (k : BitVec 16), (∀ x, i ≠ .skp x) → (∀ x, i ≠ .sknp x) → (∀ x, i ≠ .ldKey x) →
    exec i { s with keys := k } = mapNext (fun t => { t with keys := k }) (exec i s)

/-! ## Control flow -/

/-- R101: JP sets PC to its address and changes nothing else. -/
def Obligations.JumpSetsPc : Prop :=
  ∀ (nnn : BitVec 12) (s : State), ∃ t, exec (.jp nnn) s = .next t ∧ t.pc.toNat = nnn.toNat ∧ t = { s with pc := t.pc }

/-- R102, R184: below the depth CALL pushes the address after it and sets PC; at the depth it raises StackOverflow (the bound is
the spec's decision D3, log entry 13). -/
def Obligations.CallPushesReturnAddress : Prop :=
  ∀ (nnn : BitVec 12) (s : State),
    (s.stack.length < s.cfg.stackDepth → ∃ t, exec (.call nnn) s = .next t ∧ t.pc.toNat = nnn.toNat ∧
      t.stack = s.pc :: s.stack ∧ t = { s with pc := t.pc, stack := t.stack }) ∧
    (s.cfg.stackDepth ≤ s.stack.length → exec (.call nnn) s = .next { s with err := some .stackOverflow })

/-- R100: RET takes the newest entry off the stack into PC and changes nothing else; on the empty stack it raises
StackUnderflow. -/
def Obligations.ReturnPopsNewestEntry : Prop :=
  ∀ s : State,
    (∀ w rest, s.stack = w :: rest → ∃ t, exec .ret s = .next t ∧ t.pc = w ∧ t.stack = rest ∧
      t = { s with pc := t.pc, stack := t.stack }) ∧
    (s.stack = [] → exec .ret s = .next { s with err := some .stackUnderflow })

/-- R100, R102 (D0's stack round trip): a return, from any state the subroutine leaves with the stack as CALL made it, restores
PC to the instruction after the call and the stack to what it was. -/
def Obligations.CallThenReturnComesBack : Prop :=
  ∀ (nnn : BitVec 12) (s : State), s.stack.length < s.cfg.stackDepth →
    ∃ t, exec (.call nnn) s = .next t ∧
      ∀ u : State, u.stack = t.stack → ∃ r, exec .ret u = .next r ∧ r.pc = s.pc ∧ r.stack = s.stack ∧
        r = { u with pc := r.pc, stack := r.stack }

/-- R103 to R106: the skips advance PC by a further 2 exactly when the comparison holds, and change nothing else; SE Vx,Vx always
skips and SNE Vx,Vx never does. -/
def Obligations.SkipsAdvancePcOnTheirCondition : Prop :=
  ∀ (x y : Fin 16) (nn : Byte) (s : State),
    (∃ t, exec (.seImm x nn) s = .next t ∧ t = { s with pc := t.pc } ∧
      (s.reg x = nn → t.pc = s.pc + 2) ∧ (s.reg x ≠ nn → t.pc = s.pc)) ∧
    (∃ t, exec (.sneImm x nn) s = .next t ∧ t = { s with pc := t.pc } ∧
      (s.reg x ≠ nn → t.pc = s.pc + 2) ∧ (s.reg x = nn → t.pc = s.pc)) ∧
    (∃ t, exec (.seReg x y) s = .next t ∧ t = { s with pc := t.pc } ∧
      (s.reg x = s.reg y → t.pc = s.pc + 2) ∧ (s.reg x ≠ s.reg y → t.pc = s.pc)) ∧
    ∃ t, exec (.sneReg x y) s = .next t ∧ t = { s with pc := t.pc } ∧
      (s.reg x ≠ s.reg y → t.pc = s.pc + 2) ∧ (s.reg x = s.reg y → t.pc = s.pc)

/-- R107: jump-with-offset adds V0 to the address, or V[x] with x the address's upper nibble under the quirk (the spec's decision
D14, log entry 17); that the sum is neither reduced nor checked is the spec's decision D25 (log entry 25). -/
def Obligations.JumpWithOffsetAddsRegister : Prop :=
  ∀ (nnn : BitVec 12) (s : State),
    ∃ t, exec (.jpV0 nnn) s = .next t ∧ t = { s with pc := t.pc } ∧
      (s.cfg.qJumpVx = false → t.pc.toNat = nnn.toNat + (s.reg 0).toNat) ∧
      (s.cfg.qJumpVx = true → ∀ x : Fin 16, x.val = nnn.toNat / 0x100 → t.pc.toNat = nnn.toNat + (s.reg x).toNat)

/-! ## Arithmetic -/

/-- R110, R111: load and add immediate write V[x] alone, the addition modulo 256 and without a flag, VF included. -/
def Obligations.ImmediatesWriteOnlyTheirRegister : Prop :=
  ∀ (x : Fin 16) (nn : Byte) (s : State),
    (∃ t, exec (.ldImm x nn) s = .next t ∧ t = { s with v := t.v } ∧ t.reg x = nn ∧ ∀ k, k ≠ x → t.reg k = s.reg k) ∧
    ∃ t, exec (.addImm x nn) s = .next t ∧ t = { s with v := t.v } ∧
      (t.reg x).toNat = ((s.reg x).toNat + nn.toNat) % 256 ∧ ∀ k, k ≠ x → t.reg k = s.reg k

/-- R112 to R115: copy, OR, AND and XOR, bit by bit; they write V[x] alone, so VF changes only as the destination. -/
def Obligations.CopyAndLogicWriteOnlyTheirRegister : Prop :=
  ∀ (x y : Fin 16) (s : State),
    (∃ t, exec (.ldReg x y) s = .next t ∧ t = { s with v := t.v } ∧ t.reg x = s.reg y ∧ ∀ k, k ≠ x → t.reg k = s.reg k) ∧
    (∃ t, exec (.orReg x y) s = .next t ∧ t = { s with v := t.v } ∧
      (∀ b, (t.reg x).getLsbD b = ((s.reg x).getLsbD b || (s.reg y).getLsbD b)) ∧ ∀ k, k ≠ x → t.reg k = s.reg k) ∧
    (∃ t, exec (.andReg x y) s = .next t ∧ t = { s with v := t.v } ∧
      (∀ b, (t.reg x).getLsbD b = ((s.reg x).getLsbD b && (s.reg y).getLsbD b)) ∧ ∀ k, k ≠ x → t.reg k = s.reg k) ∧
    ∃ t, exec (.xorReg x y) s = .next t ∧ t = { s with v := t.v } ∧
      (∀ b, (t.reg x).getLsbD b = ((s.reg x).getLsbD b ^^ (s.reg y).getLsbD b)) ∧ ∀ k, k ≠ x → t.reg k = s.reg k

/-- R116, R121: the sum modulo 256 to V[x] and the carry to VF, last, so that x = 15 leaves the carry alone (the spec's decision
D7, log entry 15). -/
def Obligations.AddWritesSumAndCarry : Prop :=
  ∀ (x y : Fin 16) (s : State), ∃ t, exec (.addReg x y) s = .next t ∧ t = { s with v := t.v } ∧
    (x ≠ 15 → (t.reg x).toNat = ((s.reg x).toNat + (s.reg y).toNat) % 256) ∧
    (255 < (s.reg x).toNat + (s.reg y).toNat → t.reg 15 = 1) ∧
    ((s.reg x).toNat + (s.reg y).toNat ≤ 255 → t.reg 15 = 0) ∧
    ∀ k, k ≠ x → k ≠ 15 → t.reg k = s.reg k

/-- R117, R119, R121, R122: the differences modulo 256, both ways round, and VF = 1 exactly when there is no borrow, last (the
spec's decision D7, log entry 15). -/
def Obligations.SubtractionsWriteDifferenceAndNoBorrow : Prop :=
  ∀ (x y : Fin 16) (s : State),
    (∃ t, exec (.subReg x y) s = .next t ∧ t = { s with v := t.v } ∧
      (x ≠ 15 → (t.reg x).toNat = ((s.reg x).toNat + 256 - (s.reg y).toNat) % 256) ∧
      ((s.reg y).toNat ≤ (s.reg x).toNat → t.reg 15 = 1) ∧ ((s.reg x).toNat < (s.reg y).toNat → t.reg 15 = 0) ∧
      ∀ k, k ≠ x → k ≠ 15 → t.reg k = s.reg k) ∧
    ∃ t, exec (.subn x y) s = .next t ∧ t = { s with v := t.v } ∧
      (x ≠ 15 → (t.reg x).toNat = ((s.reg y).toNat + 256 - (s.reg x).toNat) % 256) ∧
      ((s.reg x).toNat ≤ (s.reg y).toNat → t.reg 15 = 1) ∧ ((s.reg y).toNat < (s.reg x).toNat → t.reg 15 = 0) ∧
      ∀ k, k ≠ x → k ≠ 15 → t.reg k = s.reg k

/-- R118, R120, R121: the shifts by one of V[y], or of V[x] when `Q_SHIFT_VY` is false (the spec's decision D14, log entry 17), with
the bit shifted out in VF, last; V[y] is unchanged unless it is the destination or VF. -/
def Obligations.ShiftsWriteResultAndBitOut : Prop :=
  ∀ (x y : Fin 16) (s : State) (b : Byte), b = (if s.cfg.qShiftVy then s.reg y else s.reg x) →
    (∃ t, exec (.shr x y) s = .next t ∧ t = { s with v := t.v } ∧
      (x ≠ 15 → (t.reg x).toNat = b.toNat / 2) ∧ (t.reg 15).toNat = b.toNat % 2 ∧
      ∀ k, k ≠ x → k ≠ 15 → t.reg k = s.reg k) ∧
    ∃ t, exec (.shl x y) s = .next t ∧ t = { s with v := t.v } ∧
      (x ≠ 15 → (t.reg x).toNat = b.toNat * 2 % 256) ∧ (t.reg 15).toNat = b.toNat / 128 ∧
      ∀ k, k ≠ x → k ≠ 15 → t.reg k = s.reg k

/-! ## Index and random -/

/-- R130: LD I writes the address to I and changes nothing else. -/
def Obligations.LoadIndexSetsIndex : Prop :=
  ∀ (nnn : BitVec 12) (s : State), ∃ t, exec (.ldI nnn) s = .next t ∧ t.index.toNat = nnn.toNat ∧ t = { s with index := t.index }

/-- R131: under `Q_INDEX_OVF` I wraps at 12 bits and VF says whether the sum left them, V[x] being read before VF is written;
otherwise I wraps at 16 bits and no register changes (the spec's decisions D13, D14, log entry 17). -/
def Obligations.AddToIndexWrapsAndFlags : Prop :=
  ∀ (x : Fin 16) (s : State),
    (s.cfg.qIndexOvf = true → ∃ t, exec (.addI x) s = .next t ∧ t = { s with index := t.index, v := t.v } ∧
      t.index.toNat = (s.index.toNat + (s.reg x).toNat) % 0x1000 ∧
      (0x0FFF < s.index.toNat + (s.reg x).toNat → t.reg 15 = 1) ∧
      (s.index.toNat + (s.reg x).toNat ≤ 0x0FFF → t.reg 15 = 0) ∧ ∀ k, k ≠ 15 → t.reg k = s.reg k) ∧
    (s.cfg.qIndexOvf = false → ∃ t, exec (.addI x) s = .next t ∧ t = { s with index := t.index } ∧
      t.index.toNat = (s.index.toNat + (s.reg x).toNat) % 0x10000)

/-- R132, R22, R90: RND writes to V[x] the low byte of the draw under the mask, so no bit outside the mask is set, changes no other
register, and takes a fresh draw, the next RND or LD Vx,K taking another; the draw is a free value applied to the count of those
taken (log entry 7), and the statement holds whatever it is. That the low byte is used is the spec's decision D20. -/
def Obligations.RandomIsMasked : Prop :=
  ∀ (x : Fin 16) (nn : Byte) (s : State), ∃ t, exec (.rnd x nn) s = .next t ∧ t = { s with v := t.v, draws := t.draws } ∧
    t.reg x = (Config.rand16 s.draws).extractLsb' 0 8 &&& nn ∧ t.draws = s.draws + 1 ∧
    (∀ b, nn.getLsbD b = false → (t.reg x).getLsbD b = false) ∧ ∀ k, k ≠ x → t.reg k = s.reg k

/-! ## Display -/

/-- R140: CLS makes every pixel false and DIRTY true, and changes nothing else, VF included. -/
def Obligations.ClearScreenClearsEveryPixel : Prop :=
  ∀ s : State, ∃ t, exec .cls s = .next t ∧ t = { s with fb := t.fb, dirty := t.dirty } ∧ t.dirty = true ∧
    ∀ py px, t.pixel py px = false

/-- R141, R142: a draw whose rows lie in memory inverts exactly the pixels under set sprite bits, sets VF to 1 exactly when one of
them was set, sets DIRTY, and changes nothing else; the start wraps and the body is clipped (the sprite's bit order is the
spec's decision D12, log entry 16, and the rows clipped away are not read, D27, log entry 18). -/
def Obligations.DrawInvertsPixelsUnderTheSprite : Prop :=
  ∀ (x y : Fin 16) (n : Nat) (s : State),
    n = 0 ∨ s.index.toNat + min n (32 - (s.reg y).toNat % 32) ≤ 0x1000 →
    ∃ t, exec (.drw x y n) s = .next t ∧ t = { s with fb := t.fb, v := t.v, dirty := t.dirty } ∧ t.dirty = true ∧
      (∀ py px, spriteOver s x y n py px → t.pixel py px = !s.pixel py px) ∧
      (∀ py px, ¬ spriteOver s x y n py px → t.pixel py px = s.pixel py px) ∧
      ((∃ py px, spriteOver s x y n py px ∧ s.pixel py px = true) → t.reg 15 = 1) ∧
      ((∀ py px, spriteOver s x y n py px → s.pixel py px = false) → t.reg 15 = 0) ∧
      ∀ k, k ≠ 15 → t.reg k = s.reg k

/-- R141: DRW is what the rule's seven steps compute, rows and columns visited in order, the row broken at the right edge, and the
bounds check first (the model writes DRW as one update of the buffer, log entry 20). The sprite's bit order is the spec's decision
D12 (log entry 16), and that clipped rows are not read D27 (log entry 18); that a count beyond 15, which no word encodes, follows
the rule too is the model's own choice (log entry 30). -/
def Obligations.DrawIsTheLoopOfTheRule : Prop :=
  ∀ (x y : Fin 16) (n : Nat) (s : State), exec (.drw x y n) s = .next (ruleDraw x y n s)

/-- R141 (h): drawing the same rows at the same place again restores the buffer, and the second draw reports a collision exactly
when some pixel under the sprite was false before the first.
The bit order and the rows not read are the spec's decisions D12, D27 (log entries 16, 18). -/
def Obligations.DrawingTwiceRestoresTheBuffer : Prop :=
  ∀ (x y x' y' : Fin 16) (n : Nat) (s t : State), errorOf (.drw x y n) s = none → exec (.drw x y n) s = .next t →
    (t.reg x').toNat % 64 = (s.reg x).toNat % 64 → (t.reg y').toNat % 32 = (s.reg y).toNat % 32 →
    ∃ u, exec (.drw x' y' n) t = .next u ∧ u.fb = s.fb ∧
      (u.reg 15 = 1 ↔ ∃ py px, spriteOver s x y n py px ∧ s.pixel py px = false)

/-! ## Keypad -/

/-- R150, R151, R186: the key skips test the key numbered by V[x]; beyond 0x0F they raise KeyOutOfRange with V[x] and change
nothing else (the spec's decision D9, log entry 14). -/
def Obligations.KeySkipsTestOneKey : Prop :=
  ∀ (x : Fin 16) (s : State),
    ((s.reg x).toNat ≤ 15 →
      (∃ t, exec (.skp x) s = .next t ∧ t = { s with pc := t.pc } ∧
        (s.keys.getLsbD (s.reg x).toNat = true → t.pc = s.pc + 2) ∧ (s.keys.getLsbD (s.reg x).toNat = false → t.pc = s.pc)) ∧
      ∃ t, exec (.sknp x) s = .next t ∧ t = { s with pc := t.pc } ∧
        (s.keys.getLsbD (s.reg x).toNat = false → t.pc = s.pc + 2) ∧ (s.keys.getLsbD (s.reg x).toNat = true → t.pc = s.pc)) ∧
    (15 < (s.reg x).toNat →
      exec (.skp x) s = .next { s with err := some (.keyOutOfRange (s.reg x)) } ∧
      exec (.sknp x) s = .next { s with err := some (.keyOutOfRange (s.reg x)) })

/-- R152: with no key down LD Vx,K takes PC back by 2 and changes nothing else; with some key down it stores the number of a key
that is down and changes no other register; which one is a free value (log entry 8). -/
def Obligations.KeyWaitStallsOrStoresAKey : Prop :=
  ∀ (x : Fin 16) (s : State),
    (s.keys = 0#16 → ∃ t, exec (.ldKey x) s = .next t ∧ t.pc = s.pc - 2 ∧ t = { s with pc := t.pc }) ∧
    (s.keys ≠ 0#16 → ∃ t, exec (.ldKey x) s = .next t ∧ t = { s with v := t.v, draws := t.draws } ∧
      (∃ k : Fin 16, s.keys.getLsbD k.val = true ∧ (t.reg x).toNat = k.val) ∧ ∀ k, k ≠ x → t.reg k = s.reg k)

/-- R152 (a): the whole effect of a step of the waiting instruction with no key down is nil. -/
def Obligations.KeyWaitStepChangesNothing : Prop :=
  ∀ (s : State) (x : Fin 16), s.agenda = [] → s.err = none → s.pc.toNat ≤ 0xFFE → s.keys = 0#16 →
    decode (wordOfBytes (s.memRead s.pc.toNat) (s.memRead (s.pc.toNat + 1))) = .ok (.ldKey x) → step s = .next s

/-! ## Ticks -/

/-- R87: n ticks take each counter down by n with its own floor at 0, and change nothing else, whether or not ERR is set.
That ERR does not stop them is the spec's decision D16 (log entry 27). -/
def Obligations.TicksCountDownToZero : Prop :=
  ∀ (n : Nat) (s : State),
    (State.tickTimers^[n] s).dt.toNat = s.dt.toNat - n ∧ (State.tickTimers^[n] s).st.toNat = s.st.toNat - n ∧
      State.tickTimers^[n] s = { s with dt := (State.tickTimers^[n] s).dt, st := (State.tickTimers^[n] s).st }

/-! ## Memory transfers -/

/-- R160, R187: LD F sets I to FONT_BASE + 5 * V[x] for a hex digit, the parameters being sound; beyond 0x0F it raises
DigitOutOfRange with V[x] and changes nothing else (the spec's decisions D1, D10, log entries 12, 14). -/
def Obligations.FontAddressOfADigit : Prop :=
  ∀ (x : Fin 16) (s : State),
    ((s.reg x).toNat ≤ 15 → s.cfg.wellFormed = true → ∃ t, exec (.ldF x) s = .next t ∧ t = { s with index := t.index } ∧
      t.index.toNat = s.cfg.fontBase + 5 * (s.reg x).toNat) ∧
    (15 < (s.reg x).toNat → exec (.ldF x) s = .next { s with err := some (.digitOutOfRange (s.reg x)) })

/-- R161: LD B stores the three decimal digits of V[x], hundreds first, at I, I+1, I+2; every other byte and every other piece of
state is unchanged. -/
def Obligations.BcdStoresThreeDigits : Prop :=
  ∀ (x : Fin 16) (s : State), s.mem.wf = true → s.index.toNat + 2 ≤ 0xFFF →
    ∃ t, exec (.ldB x) s = .next t ∧ t = { s with mem := t.mem } ∧
      (t.memRead s.index.toNat).toNat * 100 + (t.memRead (s.index.toNat + 1)).toNat * 10 +
        (t.memRead (s.index.toNat + 2)).toNat = (s.reg x).toNat ∧
      (t.memRead (s.index.toNat + 1)).toNat ≤ 9 ∧ (t.memRead (s.index.toNat + 2)).toNat ≤ 9 ∧
      ∀ a, a < s.index.toNat ∨ s.index.toNat + 2 < a → t.memRead a = s.memRead a

/-- R162: LD [I] stores V0..Vx at I..I+x; every other byte and every other piece of state, I among them, is unchanged. -/
def Obligations.BlockStoreWritesFirstRegisters : Prop :=
  ∀ (x : Fin 16) (s : State), s.mem.wf = true → s.index.toNat + x.val ≤ 0xFFF →
    ∃ t, exec (.ldStore x) s = .next t ∧ t = { s with mem := t.mem } ∧
      (∀ k, k ≤ x → t.memRead (s.index.toNat + k.val) = s.reg k) ∧
      ∀ a, a < s.index.toNat ∨ s.index.toNat + x.val < a → t.memRead a = s.memRead a

/-- R163: LD Vx,[I] loads V0..Vx from I..I+x; the other registers and every other piece of state, memory and I among them, are
unchanged. -/
def Obligations.BlockLoadReadsFirstRegisters : Prop :=
  ∀ (x : Fin 16) (s : State), s.index.toNat + x.val ≤ 0xFFF →
    ∃ t, exec (.ldLoad x) s = .next t ∧ t = { s with v := t.v } ∧
      (∀ k, k ≤ x → t.reg k = s.memRead (s.index.toNat + k.val)) ∧ ∀ k, x < k → t.reg k = s.reg k

/-- R162, R163: a block load of what a block store wrote brings the registers back, whatever the register file holds by then. -/
def Obligations.LoadAfterStoreRestoresRegisters : Prop :=
  ∀ (x : Fin 16) (s : State) (v : Vector Byte 16), s.mem.wf = true → s.index.toNat + x.val ≤ 0xFFF →
    ∃ t u, exec (.ldStore x) s = .next t ∧ exec (.ldLoad x) { t with v := v } = .next u ∧
      (∀ k, k ≤ x → u.reg k = s.reg k) ∧ ∀ k, x < k → u.reg k = v[k]

/-- R51: a store to the very next instruction is seen by its fetch. -/
def Obligations.StoredCodeIsFetched : Prop :=
  ∀ (x : Fin 16) (s : State), s.mem.wf = true → s.err = none → 1 ≤ x.val → s.index = s.pc → s.index.toNat + x.val ≤ 0xFFF →
    ∃ t u, exec (.ldStore x) s = .next t ∧ t.fetch = (some (wordOfBytes (s.reg 0) (s.reg 1)), u)

/-! ## The other agents -/

/-- R80, R84, R85, R88, R92: the first operation of the agenda is what a step does, for the tick, the host and the core's `fetch` and
`decode_execute` called on their own; the dirty-clear changes DIRTY alone; and a `fetch` and the `decode_execute` of the word it
returned do what a Step does (the agenda is the model's own, log entry 2). -/
def Obligations.StepRunsTheNextOperation : Prop :=
  ∀ (s : State) (rest : List Turn),
    (s.agenda = .tick :: rest → step s = .next { s.tickTimers with agenda := rest }) ∧
    (∀ k, s.agenda = .keys k :: rest → step s = .next { s with keys := k, agenda := rest }) ∧
    (s.agenda = .clearDirty :: rest → step s = .next { s with dirty := false, agenda := rest }) ∧
    (s.agenda = .fetch :: rest → step s = .next { s.fetch.2 with agenda := rest }) ∧
    (∀ w, s.agenda = .decodeExecute w :: rest → s.err = none → step s = State.decodeExecute w { s with agenda := rest }) ∧
    (∀ w t, s.agenda = .fetch :: .decodeExecute w :: rest → s.fetch = (some w, t) →
      ∃ u, step s = .next u ∧ step u = step { s with agenda := .core :: rest }) ∧
    (s.agenda = .initFont :: rest → step s = .next { s.initFont with agenda := rest }) ∧
    (∀ bytes t, s.agenda = .loadProgram bytes :: rest → s.loadProgram bytes = .ok t →
      step s = .next { t with agenda := rest }) ∧
    (∀ bytes e, s.agenda = .loadProgram bytes :: rest → s.loadProgram bytes = .error e →
      step s = .next { s with agenda := rest }) ∧
    (s.agenda = .reset :: rest → step s = .next { s.hostReset with agenda := rest })

/-- R82: `initialize` writes the 80 font bytes and nothing else, and twice is once (the spec's decision D18). -/
def Obligations.InitializeWritesTheFontOnce : Prop :=
  ∀ s : State, s.mem.wf = true → s.cfg.wellFormed = true →
    (∀ k : Fin 80, s.initFont.memRead (s.cfg.fontBase + k.val) = s.cfg.fontGlyphs[k]) ∧
    (∀ a, a < s.cfg.fontBase ∨ s.cfg.fontBase + 80 ≤ a → s.initFont.memRead a = s.memRead a) ∧
    s.initFont = { s with mem := s.initFont.mem } ∧ s.initFont.initFont = s.initFont

/-- R83, R198: `load_program` of at most 3584 bytes writes exactly them from 0x200 on and sets PC to 0x200; more bytes are refused
with no change (the spec's decision D18). -/
def Obligations.LoadProgramWritesBytesAndPc : Prop :=
  ∀ (bytes : List Byte) (s : State), s.mem.wf = true →
    (bytes.length ≤ 3584 → ∃ t, s.loadProgram bytes = .ok t ∧ t.pc = 0x200 ∧ t = { s with mem := t.mem, pc := t.pc } ∧
      (∀ k, (h : k < bytes.length) → t.memRead (0x200 + k) = bytes[k]) ∧
      ∀ a, a < 0x200 ∨ 0x200 + bytes.length ≤ a → t.memRead a = s.memRead a) ∧
    (3584 < bytes.length → s.loadProgram bytes = .error .programTooLarge)

/-- R83, R101 (D0's load and jump round trip): loading a program that is one jump and stepping once leaves PC at its target (the
jump's opcode number is the spec's general knowledge, log entry 10). -/
def Obligations.LoadedJumpIsTaken : Prop :=
  ∀ (nnn : BitVec 12) (s : State), s.mem.wf = true → s.err = none → s.agenda = [] →
    ∃ t u, s.loadProgram (encodeBytes (.jp nnn)) = .ok t ∧ step t = .next u ∧ u.pc.toNat = nnn.toNat

/-- R25, R81: reset leaves every register, I and PC zero, the stack empty, the timers zero, the buffer clear, DIRTY false, every
byte of memory zero and ERR none, and keeps the parameters and the key input. All but V, I and the empty stack are the spec's
decisions D15, D16 (log entry 4); that a reset keeps the key input is the model's choice (log entry 5), and that it keeps the model's
own fields too (log entry 6). `State.reset` is such a state. -/
def Obligations.ResetLeavesTheConstructedState : Prop :=
  (∀ t : State, (t = State.reset ∨ ∃ (s : State) (rest : List Turn), s.agenda = .reset :: rest ∧ step s = .next t) →
    (∀ k, t.reg k = 0) ∧ t.index = 0 ∧ t.pc = 0 ∧ t.stack = [] ∧ t.dt = 0 ∧ t.st = 0 ∧
      (∀ py px, t.pixel py px = false) ∧ t.dirty = false ∧ (∀ a, t.memRead a = 0) ∧ t.err = none) ∧
    ∀ (s : State) (rest : List Turn), s.agenda = .reset :: rest →
      ∃ t, step s = .next t ∧ t.cfg = s.cfg ∧ t.keys = s.keys ∧ t.agenda = rest ∧ t.draws = s.draws

/-- R200: from reset, `initialize` and `load_program`, in either order, reach the boot state: the font and the program in memory,
every other byte zero, PC = 0x200, all else as reset left it. The font's address and bytes are the spec's decisions D1, D2 (log
entry 12, general knowledge), the zeros D15 (log entry 4), the loads' effects D18 (log entry 23); the schedule is an agenda, the
model's own (log entry 2). -/
def Obligations.BootReachesTheBootState : Prop :=
  ∀ bytes : List Byte, bytes.length ≤ 3584 →
    ∃ t t' u, step { State.reset with agenda := [.initFont, .loadProgram bytes] } = .next t ∧ step t = .next u ∧
      step { State.reset with agenda := [.loadProgram bytes, .initFont] } = .next t' ∧ step t' = .next u ∧
      u = { State.reset with mem := u.mem, pc := 0x200 } ∧
      (∀ k : Fin 80, u.memRead (0x050 + k.val) = defaultFontGlyphs[k]) ∧
      (∀ k, (h : k < bytes.length) → u.memRead (0x200 + k) = bytes[k]) ∧
      ∀ a, a < 0x050 ∨ (0x0A0 ≤ a ∧ a < 0x200) ∨ 0x200 + bytes.length ≤ a → u.memRead a = 0

/-! ## Invariants -/

/-- R25, R26: the state after reset meets both invariants (the canonical form of memory and the empty agenda are the model's own, log
entries 6, 9; PC = 0 is the spec's decision D15, log entry 4). -/
def Obligations.ResetMeetsTheInvariants : Prop := State.reset.Inv ∧ State.reset.StepInv

/-- R26 (the spec's inference): every operation of every agent keeps I within 12 bits under `Q_INDEX_OVF` (a), the stack within its
depth (e), memory in canonical form (the model's own, log entry 9) and sound parameters; and while no `decode_execute` is called on
its own, every operation keeps the stack entries in 2..0x1000 (b) and PC at most 0x10FE (c) (the agenda is the model's own, log
entry 2; that PC is not masked is the spec's decision D25, log entry 25; the split in two is log entry 31). -/
def Obligations.EveryStepKeepsTheInvariants : Prop :=
  ∀ s t : State, step s = .next t → (s.Inv → t.Inv) ∧ (s.StepInv → t.StepInv)

/-- R19, R24 (the canonical form is the model's own, log entry 9): every step keeps memory canonical, and no step changes the
parameters. -/
def Obligations.EveryStepKeepsMemoryFormAndParameters : Prop :=
  ∀ s t : State, step s = .next t → (s.mem.wf = true → t.mem.wf = true) ∧ t.cfg = s.cfg
end

