-- ==== Sys2Proof/Laws/State.lean ====
section
/-! SUPPORT. Every field after every update of Machine/Ops.lean, true by rfl, so that no proof unfolds a record update; and the
registers after a register write. -/

namespace Sys2Proof.Machine

@[simp] theorem State.setReg_v (s : State) (x : Fin 16) (b : Byte) : (s.setReg x b).v = s.v.set x.val b x.isLt := rfl
@[simp] theorem State.setReg_index (s : State) (x : Fin 16) (b : Byte) : (s.setReg x b).index = s.index := rfl
@[simp] theorem State.setReg_pc (s : State) (x : Fin 16) (b : Byte) : (s.setReg x b).pc = s.pc := rfl
@[simp] theorem State.setReg_stack (s : State) (x : Fin 16) (b : Byte) : (s.setReg x b).stack = s.stack := rfl
@[simp] theorem State.setReg_dt (s : State) (x : Fin 16) (b : Byte) : (s.setReg x b).dt = s.dt := rfl
@[simp] theorem State.setReg_st (s : State) (x : Fin 16) (b : Byte) : (s.setReg x b).st = s.st := rfl
@[simp] theorem State.setReg_fb (s : State) (x : Fin 16) (b : Byte) : (s.setReg x b).fb = s.fb := rfl
@[simp] theorem State.setReg_dirty (s : State) (x : Fin 16) (b : Byte) : (s.setReg x b).dirty = s.dirty := rfl
@[simp] theorem State.setReg_mem (s : State) (x : Fin 16) (b : Byte) : (s.setReg x b).mem = s.mem := rfl
@[simp] theorem State.setReg_err (s : State) (x : Fin 16) (b : Byte) : (s.setReg x b).err = s.err := rfl
@[simp] theorem State.setReg_keys (s : State) (x : Fin 16) (b : Byte) : (s.setReg x b).keys = s.keys := rfl
@[simp] theorem State.setReg_cfg (s : State) (x : Fin 16) (b : Byte) : (s.setReg x b).cfg = s.cfg := rfl
@[simp] theorem State.setReg_agenda (s : State) (x : Fin 16) (b : Byte) : (s.setReg x b).agenda = s.agenda := rfl
@[simp] theorem State.setReg_draws (s : State) (x : Fin 16) (b : Byte) : (s.setReg x b).draws = s.draws := rfl

@[simp] theorem State.setRegs_v (s : State) (v : Vector Byte 16) : (s.setRegs v).v = v := rfl
@[simp] theorem State.setRegs_index (s : State) (v : Vector Byte 16) : (s.setRegs v).index = s.index := rfl
@[simp] theorem State.setRegs_pc (s : State) (v : Vector Byte 16) : (s.setRegs v).pc = s.pc := rfl
@[simp] theorem State.setRegs_stack (s : State) (v : Vector Byte 16) : (s.setRegs v).stack = s.stack := rfl
@[simp] theorem State.setRegs_dt (s : State) (v : Vector Byte 16) : (s.setRegs v).dt = s.dt := rfl
@[simp] theorem State.setRegs_st (s : State) (v : Vector Byte 16) : (s.setRegs v).st = s.st := rfl
@[simp] theorem State.setRegs_fb (s : State) (v : Vector Byte 16) : (s.setRegs v).fb = s.fb := rfl
@[simp] theorem State.setRegs_dirty (s : State) (v : Vector Byte 16) : (s.setRegs v).dirty = s.dirty := rfl
@[simp] theorem State.setRegs_mem (s : State) (v : Vector Byte 16) : (s.setRegs v).mem = s.mem := rfl
@[simp] theorem State.setRegs_err (s : State) (v : Vector Byte 16) : (s.setRegs v).err = s.err := rfl
@[simp] theorem State.setRegs_keys (s : State) (v : Vector Byte 16) : (s.setRegs v).keys = s.keys := rfl
@[simp] theorem State.setRegs_cfg (s : State) (v : Vector Byte 16) : (s.setRegs v).cfg = s.cfg := rfl
@[simp] theorem State.setRegs_agenda (s : State) (v : Vector Byte 16) : (s.setRegs v).agenda = s.agenda := rfl
@[simp] theorem State.setRegs_draws (s : State) (v : Vector Byte 16) : (s.setRegs v).draws = s.draws := rfl

@[simp] theorem State.setIndex_v (s : State) (w : Word) : (s.setIndex w).v = s.v := rfl
@[simp] theorem State.setIndex_index (s : State) (w : Word) : (s.setIndex w).index = w := rfl
@[simp] theorem State.setIndex_pc (s : State) (w : Word) : (s.setIndex w).pc = s.pc := rfl
@[simp] theorem State.setIndex_stack (s : State) (w : Word) : (s.setIndex w).stack = s.stack := rfl
@[simp] theorem State.setIndex_dt (s : State) (w : Word) : (s.setIndex w).dt = s.dt := rfl
@[simp] theorem State.setIndex_st (s : State) (w : Word) : (s.setIndex w).st = s.st := rfl
@[simp] theorem State.setIndex_fb (s : State) (w : Word) : (s.setIndex w).fb = s.fb := rfl
@[simp] theorem State.setIndex_dirty (s : State) (w : Word) : (s.setIndex w).dirty = s.dirty := rfl
@[simp] theorem State.setIndex_mem (s : State) (w : Word) : (s.setIndex w).mem = s.mem := rfl
@[simp] theorem State.setIndex_err (s : State) (w : Word) : (s.setIndex w).err = s.err := rfl
@[simp] theorem State.setIndex_keys (s : State) (w : Word) : (s.setIndex w).keys = s.keys := rfl
@[simp] theorem State.setIndex_cfg (s : State) (w : Word) : (s.setIndex w).cfg = s.cfg := rfl
@[simp] theorem State.setIndex_agenda (s : State) (w : Word) : (s.setIndex w).agenda = s.agenda := rfl
@[simp] theorem State.setIndex_draws (s : State) (w : Word) : (s.setIndex w).draws = s.draws := rfl

@[simp] theorem State.setPc_v (s : State) (w : Word) : (s.setPc w).v = s.v := rfl
@[simp] theorem State.setPc_index (s : State) (w : Word) : (s.setPc w).index = s.index := rfl
@[simp] theorem State.setPc_pc (s : State) (w : Word) : (s.setPc w).pc = w := rfl
@[simp] theorem State.setPc_stack (s : State) (w : Word) : (s.setPc w).stack = s.stack := rfl
@[simp] theorem State.setPc_dt (s : State) (w : Word) : (s.setPc w).dt = s.dt := rfl
@[simp] theorem State.setPc_st (s : State) (w : Word) : (s.setPc w).st = s.st := rfl
@[simp] theorem State.setPc_fb (s : State) (w : Word) : (s.setPc w).fb = s.fb := rfl
@[simp] theorem State.setPc_dirty (s : State) (w : Word) : (s.setPc w).dirty = s.dirty := rfl
@[simp] theorem State.setPc_mem (s : State) (w : Word) : (s.setPc w).mem = s.mem := rfl
@[simp] theorem State.setPc_err (s : State) (w : Word) : (s.setPc w).err = s.err := rfl
@[simp] theorem State.setPc_keys (s : State) (w : Word) : (s.setPc w).keys = s.keys := rfl
@[simp] theorem State.setPc_cfg (s : State) (w : Word) : (s.setPc w).cfg = s.cfg := rfl
@[simp] theorem State.setPc_agenda (s : State) (w : Word) : (s.setPc w).agenda = s.agenda := rfl
@[simp] theorem State.setPc_draws (s : State) (w : Word) : (s.setPc w).draws = s.draws := rfl

@[simp] theorem State.setStack_v (s : State) (k : List Word) : (s.setStack k).v = s.v := rfl
@[simp] theorem State.setStack_index (s : State) (k : List Word) : (s.setStack k).index = s.index := rfl
@[simp] theorem State.setStack_pc (s : State) (k : List Word) : (s.setStack k).pc = s.pc := rfl
@[simp] theorem State.setStack_stack (s : State) (k : List Word) : (s.setStack k).stack = k := rfl
@[simp] theorem State.setStack_dt (s : State) (k : List Word) : (s.setStack k).dt = s.dt := rfl
@[simp] theorem State.setStack_st (s : State) (k : List Word) : (s.setStack k).st = s.st := rfl
@[simp] theorem State.setStack_fb (s : State) (k : List Word) : (s.setStack k).fb = s.fb := rfl
@[simp] theorem State.setStack_dirty (s : State) (k : List Word) : (s.setStack k).dirty = s.dirty := rfl
@[simp] theorem State.setStack_mem (s : State) (k : List Word) : (s.setStack k).mem = s.mem := rfl
@[simp] theorem State.setStack_err (s : State) (k : List Word) : (s.setStack k).err = s.err := rfl
@[simp] theorem State.setStack_keys (s : State) (k : List Word) : (s.setStack k).keys = s.keys := rfl
@[simp] theorem State.setStack_cfg (s : State) (k : List Word) : (s.setStack k).cfg = s.cfg := rfl
@[simp] theorem State.setStack_agenda (s : State) (k : List Word) : (s.setStack k).agenda = s.agenda := rfl
@[simp] theorem State.setStack_draws (s : State) (k : List Word) : (s.setStack k).draws = s.draws := rfl

@[simp] theorem State.setDt_v (s : State) (b : Byte) : (s.setDt b).v = s.v := rfl
@[simp] theorem State.setDt_index (s : State) (b : Byte) : (s.setDt b).index = s.index := rfl
@[simp] theorem State.setDt_pc (s : State) (b : Byte) : (s.setDt b).pc = s.pc := rfl
@[simp] theorem State.setDt_stack (s : State) (b : Byte) : (s.setDt b).stack = s.stack := rfl
@[simp] theorem State.setDt_dt (s : State) (b : Byte) : (s.setDt b).dt = b := rfl
@[simp] theorem State.setDt_st (s : State) (b : Byte) : (s.setDt b).st = s.st := rfl
@[simp] theorem State.setDt_fb (s : State) (b : Byte) : (s.setDt b).fb = s.fb := rfl
@[simp] theorem State.setDt_dirty (s : State) (b : Byte) : (s.setDt b).dirty = s.dirty := rfl
@[simp] theorem State.setDt_mem (s : State) (b : Byte) : (s.setDt b).mem = s.mem := rfl
@[simp] theorem State.setDt_err (s : State) (b : Byte) : (s.setDt b).err = s.err := rfl
@[simp] theorem State.setDt_keys (s : State) (b : Byte) : (s.setDt b).keys = s.keys := rfl
@[simp] theorem State.setDt_cfg (s : State) (b : Byte) : (s.setDt b).cfg = s.cfg := rfl
@[simp] theorem State.setDt_agenda (s : State) (b : Byte) : (s.setDt b).agenda = s.agenda := rfl
@[simp] theorem State.setDt_draws (s : State) (b : Byte) : (s.setDt b).draws = s.draws := rfl

@[simp] theorem State.setSt_v (s : State) (b : Byte) : (s.setSt b).v = s.v := rfl
@[simp] theorem State.setSt_index (s : State) (b : Byte) : (s.setSt b).index = s.index := rfl
@[simp] theorem State.setSt_pc (s : State) (b : Byte) : (s.setSt b).pc = s.pc := rfl
@[simp] theorem State.setSt_stack (s : State) (b : Byte) : (s.setSt b).stack = s.stack := rfl
@[simp] theorem State.setSt_dt (s : State) (b : Byte) : (s.setSt b).dt = s.dt := rfl
@[simp] theorem State.setSt_st (s : State) (b : Byte) : (s.setSt b).st = b := rfl
@[simp] theorem State.setSt_fb (s : State) (b : Byte) : (s.setSt b).fb = s.fb := rfl
@[simp] theorem State.setSt_dirty (s : State) (b : Byte) : (s.setSt b).dirty = s.dirty := rfl
@[simp] theorem State.setSt_mem (s : State) (b : Byte) : (s.setSt b).mem = s.mem := rfl
@[simp] theorem State.setSt_err (s : State) (b : Byte) : (s.setSt b).err = s.err := rfl
@[simp] theorem State.setSt_keys (s : State) (b : Byte) : (s.setSt b).keys = s.keys := rfl
@[simp] theorem State.setSt_cfg (s : State) (b : Byte) : (s.setSt b).cfg = s.cfg := rfl
@[simp] theorem State.setSt_agenda (s : State) (b : Byte) : (s.setSt b).agenda = s.agenda := rfl
@[simp] theorem State.setSt_draws (s : State) (b : Byte) : (s.setSt b).draws = s.draws := rfl

@[simp] theorem State.setFb_v (s : State) (f : Vector (Vector Bool 64) 32) : (s.setFb f).v = s.v := rfl
@[simp] theorem State.setFb_index (s : State) (f : Vector (Vector Bool 64) 32) : (s.setFb f).index = s.index := rfl
@[simp] theorem State.setFb_pc (s : State) (f : Vector (Vector Bool 64) 32) : (s.setFb f).pc = s.pc := rfl
@[simp] theorem State.setFb_stack (s : State) (f : Vector (Vector Bool 64) 32) : (s.setFb f).stack = s.stack := rfl
@[simp] theorem State.setFb_dt (s : State) (f : Vector (Vector Bool 64) 32) : (s.setFb f).dt = s.dt := rfl
@[simp] theorem State.setFb_st (s : State) (f : Vector (Vector Bool 64) 32) : (s.setFb f).st = s.st := rfl
@[simp] theorem State.setFb_fb (s : State) (f : Vector (Vector Bool 64) 32) : (s.setFb f).fb = f := rfl
@[simp] theorem State.setFb_dirty (s : State) (f : Vector (Vector Bool 64) 32) : (s.setFb f).dirty = s.dirty := rfl
@[simp] theorem State.setFb_mem (s : State) (f : Vector (Vector Bool 64) 32) : (s.setFb f).mem = s.mem := rfl
@[simp] theorem State.setFb_err (s : State) (f : Vector (Vector Bool 64) 32) : (s.setFb f).err = s.err := rfl
@[simp] theorem State.setFb_keys (s : State) (f : Vector (Vector Bool 64) 32) : (s.setFb f).keys = s.keys := rfl
@[simp] theorem State.setFb_cfg (s : State) (f : Vector (Vector Bool 64) 32) : (s.setFb f).cfg = s.cfg := rfl
@[simp] theorem State.setFb_agenda (s : State) (f : Vector (Vector Bool 64) 32) : (s.setFb f).agenda = s.agenda := rfl
@[simp] theorem State.setFb_draws (s : State) (f : Vector (Vector Bool 64) 32) : (s.setFb f).draws = s.draws := rfl

@[simp] theorem State.setDirty_v (s : State) (b : Bool) : (s.setDirty b).v = s.v := rfl
@[simp] theorem State.setDirty_index (s : State) (b : Bool) : (s.setDirty b).index = s.index := rfl
@[simp] theorem State.setDirty_pc (s : State) (b : Bool) : (s.setDirty b).pc = s.pc := rfl
@[simp] theorem State.setDirty_stack (s : State) (b : Bool) : (s.setDirty b).stack = s.stack := rfl
@[simp] theorem State.setDirty_dt (s : State) (b : Bool) : (s.setDirty b).dt = s.dt := rfl
@[simp] theorem State.setDirty_st (s : State) (b : Bool) : (s.setDirty b).st = s.st := rfl
@[simp] theorem State.setDirty_fb (s : State) (b : Bool) : (s.setDirty b).fb = s.fb := rfl
@[simp] theorem State.setDirty_dirty (s : State) (b : Bool) : (s.setDirty b).dirty = b := rfl
@[simp] theorem State.setDirty_mem (s : State) (b : Bool) : (s.setDirty b).mem = s.mem := rfl
@[simp] theorem State.setDirty_err (s : State) (b : Bool) : (s.setDirty b).err = s.err := rfl
@[simp] theorem State.setDirty_keys (s : State) (b : Bool) : (s.setDirty b).keys = s.keys := rfl
@[simp] theorem State.setDirty_cfg (s : State) (b : Bool) : (s.setDirty b).cfg = s.cfg := rfl
@[simp] theorem State.setDirty_agenda (s : State) (b : Bool) : (s.setDirty b).agenda = s.agenda := rfl
@[simp] theorem State.setDirty_draws (s : State) (b : Bool) : (s.setDirty b).draws = s.draws := rfl

@[simp] theorem State.setMem_v (s : State) (m : Memory) : (s.setMem m).v = s.v := rfl
@[simp] theorem State.setMem_index (s : State) (m : Memory) : (s.setMem m).index = s.index := rfl
@[simp] theorem State.setMem_pc (s : State) (m : Memory) : (s.setMem m).pc = s.pc := rfl
@[simp] theorem State.setMem_stack (s : State) (m : Memory) : (s.setMem m).stack = s.stack := rfl
@[simp] theorem State.setMem_dt (s : State) (m : Memory) : (s.setMem m).dt = s.dt := rfl
@[simp] theorem State.setMem_st (s : State) (m : Memory) : (s.setMem m).st = s.st := rfl
@[simp] theorem State.setMem_fb (s : State) (m : Memory) : (s.setMem m).fb = s.fb := rfl
@[simp] theorem State.setMem_dirty (s : State) (m : Memory) : (s.setMem m).dirty = s.dirty := rfl
@[simp] theorem State.setMem_mem (s : State) (m : Memory) : (s.setMem m).mem = m := rfl
@[simp] theorem State.setMem_err (s : State) (m : Memory) : (s.setMem m).err = s.err := rfl
@[simp] theorem State.setMem_keys (s : State) (m : Memory) : (s.setMem m).keys = s.keys := rfl
@[simp] theorem State.setMem_cfg (s : State) (m : Memory) : (s.setMem m).cfg = s.cfg := rfl
@[simp] theorem State.setMem_agenda (s : State) (m : Memory) : (s.setMem m).agenda = s.agenda := rfl
@[simp] theorem State.setMem_draws (s : State) (m : Memory) : (s.setMem m).draws = s.draws := rfl

@[simp] theorem State.setErr_v (s : State) (e : Option Error) : (s.setErr e).v = s.v := rfl
@[simp] theorem State.setErr_index (s : State) (e : Option Error) : (s.setErr e).index = s.index := rfl
@[simp] theorem State.setErr_pc (s : State) (e : Option Error) : (s.setErr e).pc = s.pc := rfl
@[simp] theorem State.setErr_stack (s : State) (e : Option Error) : (s.setErr e).stack = s.stack := rfl
@[simp] theorem State.setErr_dt (s : State) (e : Option Error) : (s.setErr e).dt = s.dt := rfl
@[simp] theorem State.setErr_st (s : State) (e : Option Error) : (s.setErr e).st = s.st := rfl
@[simp] theorem State.setErr_fb (s : State) (e : Option Error) : (s.setErr e).fb = s.fb := rfl
@[simp] theorem State.setErr_dirty (s : State) (e : Option Error) : (s.setErr e).dirty = s.dirty := rfl
@[simp] theorem State.setErr_mem (s : State) (e : Option Error) : (s.setErr e).mem = s.mem := rfl
@[simp] theorem State.setErr_err (s : State) (e : Option Error) : (s.setErr e).err = e := rfl
@[simp] theorem State.setErr_keys (s : State) (e : Option Error) : (s.setErr e).keys = s.keys := rfl
@[simp] theorem State.setErr_cfg (s : State) (e : Option Error) : (s.setErr e).cfg = s.cfg := rfl
@[simp] theorem State.setErr_agenda (s : State) (e : Option Error) : (s.setErr e).agenda = s.agenda := rfl
@[simp] theorem State.setErr_draws (s : State) (e : Option Error) : (s.setErr e).draws = s.draws := rfl

@[simp] theorem State.setKeys_v (s : State) (k : BitVec 16) : (s.setKeys k).v = s.v := rfl
@[simp] theorem State.setKeys_index (s : State) (k : BitVec 16) : (s.setKeys k).index = s.index := rfl
@[simp] theorem State.setKeys_pc (s : State) (k : BitVec 16) : (s.setKeys k).pc = s.pc := rfl
@[simp] theorem State.setKeys_stack (s : State) (k : BitVec 16) : (s.setKeys k).stack = s.stack := rfl
@[simp] theorem State.setKeys_dt (s : State) (k : BitVec 16) : (s.setKeys k).dt = s.dt := rfl
@[simp] theorem State.setKeys_st (s : State) (k : BitVec 16) : (s.setKeys k).st = s.st := rfl
@[simp] theorem State.setKeys_fb (s : State) (k : BitVec 16) : (s.setKeys k).fb = s.fb := rfl
@[simp] theorem State.setKeys_dirty (s : State) (k : BitVec 16) : (s.setKeys k).dirty = s.dirty := rfl
@[simp] theorem State.setKeys_mem (s : State) (k : BitVec 16) : (s.setKeys k).mem = s.mem := rfl
@[simp] theorem State.setKeys_err (s : State) (k : BitVec 16) : (s.setKeys k).err = s.err := rfl
@[simp] theorem State.setKeys_keys (s : State) (k : BitVec 16) : (s.setKeys k).keys = k := rfl
@[simp] theorem State.setKeys_cfg (s : State) (k : BitVec 16) : (s.setKeys k).cfg = s.cfg := rfl
@[simp] theorem State.setKeys_agenda (s : State) (k : BitVec 16) : (s.setKeys k).agenda = s.agenda := rfl
@[simp] theorem State.setKeys_draws (s : State) (k : BitVec 16) : (s.setKeys k).draws = s.draws := rfl

@[simp] theorem State.setAgenda_v (s : State) (l : List Turn) : (s.setAgenda l).v = s.v := rfl
@[simp] theorem State.setAgenda_index (s : State) (l : List Turn) : (s.setAgenda l).index = s.index := rfl
@[simp] theorem State.setAgenda_pc (s : State) (l : List Turn) : (s.setAgenda l).pc = s.pc := rfl
@[simp] theorem State.setAgenda_stack (s : State) (l : List Turn) : (s.setAgenda l).stack = s.stack := rfl
@[simp] theorem State.setAgenda_dt (s : State) (l : List Turn) : (s.setAgenda l).dt = s.dt := rfl
@[simp] theorem State.setAgenda_st (s : State) (l : List Turn) : (s.setAgenda l).st = s.st := rfl
@[simp] theorem State.setAgenda_fb (s : State) (l : List Turn) : (s.setAgenda l).fb = s.fb := rfl
@[simp] theorem State.setAgenda_dirty (s : State) (l : List Turn) : (s.setAgenda l).dirty = s.dirty := rfl
@[simp] theorem State.setAgenda_mem (s : State) (l : List Turn) : (s.setAgenda l).mem = s.mem := rfl
@[simp] theorem State.setAgenda_err (s : State) (l : List Turn) : (s.setAgenda l).err = s.err := rfl
@[simp] theorem State.setAgenda_keys (s : State) (l : List Turn) : (s.setAgenda l).keys = s.keys := rfl
@[simp] theorem State.setAgenda_cfg (s : State) (l : List Turn) : (s.setAgenda l).cfg = s.cfg := rfl
@[simp] theorem State.setAgenda_agenda (s : State) (l : List Turn) : (s.setAgenda l).agenda = l := rfl
@[simp] theorem State.setAgenda_draws (s : State) (l : List Turn) : (s.setAgenda l).draws = s.draws := rfl

@[simp] theorem State.bumpDraws_v (s : State) : (s.bumpDraws).v = s.v := rfl
@[simp] theorem State.bumpDraws_index (s : State) : (s.bumpDraws).index = s.index := rfl
@[simp] theorem State.bumpDraws_pc (s : State) : (s.bumpDraws).pc = s.pc := rfl
@[simp] theorem State.bumpDraws_stack (s : State) : (s.bumpDraws).stack = s.stack := rfl
@[simp] theorem State.bumpDraws_dt (s : State) : (s.bumpDraws).dt = s.dt := rfl
@[simp] theorem State.bumpDraws_st (s : State) : (s.bumpDraws).st = s.st := rfl
@[simp] theorem State.bumpDraws_fb (s : State) : (s.bumpDraws).fb = s.fb := rfl
@[simp] theorem State.bumpDraws_dirty (s : State) : (s.bumpDraws).dirty = s.dirty := rfl
@[simp] theorem State.bumpDraws_mem (s : State) : (s.bumpDraws).mem = s.mem := rfl
@[simp] theorem State.bumpDraws_err (s : State) : (s.bumpDraws).err = s.err := rfl
@[simp] theorem State.bumpDraws_keys (s : State) : (s.bumpDraws).keys = s.keys := rfl
@[simp] theorem State.bumpDraws_cfg (s : State) : (s.bumpDraws).cfg = s.cfg := rfl
@[simp] theorem State.bumpDraws_agenda (s : State) : (s.bumpDraws).agenda = s.agenda := rfl
@[simp] theorem State.bumpDraws_draws (s : State) : (s.bumpDraws).draws = s.draws + 1 := rfl

/-! ## Registers -/

@[simp] theorem State.reg_setReg (s : State) (x k : Fin 16) (b : Byte) :
    (s.setReg x b).reg k = if k = x then b else s.reg k := by
  simp [State.reg, Vector.getElem_set, Fin.ext_iff, eq_comm]

@[simp] theorem State.reg_setRegs (s : State) (v : Vector Byte 16) (k : Fin 16) : (s.setRegs v).reg k = v[k] := rfl

/-- Equal registers everywhere make equal register files. -/
theorem State.v_ext (s t : State) (h : ∀ k, s.reg k = t.reg k) : s.v = t.v :=
  Vector.ext fun i hi => h ⟨i, hi⟩

@[simp] theorem State.reg_setIndex (s : State) (x : Fin 16) (w : Word) : (s.setIndex w).reg x = s.reg x := rfl
@[simp] theorem State.reg_setPc (s : State) (x : Fin 16) (w : Word) : (s.setPc w).reg x = s.reg x := rfl
@[simp] theorem State.reg_setStack (s : State) (x : Fin 16) (k : List Word) : (s.setStack k).reg x = s.reg x := rfl
@[simp] theorem State.reg_setDt (s : State) (x : Fin 16) (b : Byte) : (s.setDt b).reg x = s.reg x := rfl
@[simp] theorem State.reg_setSt (s : State) (x : Fin 16) (b : Byte) : (s.setSt b).reg x = s.reg x := rfl
@[simp] theorem State.reg_setFb (s : State) (x : Fin 16) (f : Vector (Vector Bool 64) 32) : (s.setFb f).reg x = s.reg x := rfl
@[simp] theorem State.reg_setDirty (s : State) (x : Fin 16) (b : Bool) : (s.setDirty b).reg x = s.reg x := rfl
@[simp] theorem State.reg_setMem (s : State) (x : Fin 16) (m : Memory) : (s.setMem m).reg x = s.reg x := rfl
@[simp] theorem State.reg_setErr (s : State) (x : Fin 16) (e : Option Error) : (s.setErr e).reg x = s.reg x := rfl
@[simp] theorem State.reg_setKeys (s : State) (x : Fin 16) (k : BitVec 16) : (s.setKeys k).reg x = s.reg x := rfl
@[simp] theorem State.reg_setAgenda (s : State) (x : Fin 16) (l : List Turn) : (s.setAgenda l).reg x = s.reg x := rfl
@[simp] theorem State.reg_bumpDraws (s : State) (x : Fin 16) : (s.bumpDraws).reg x = s.reg x := rfl

/-! ## Memory reads -/

@[simp] theorem State.memRead_setReg (s : State) (x : Fin 16) (b : Byte) (adr : Nat) : (s.setReg x b).memRead adr = s.memRead adr := rfl
@[simp] theorem State.memRead_setRegs (s : State) (v : Vector Byte 16) (adr : Nat) : (s.setRegs v).memRead adr = s.memRead adr := rfl
@[simp] theorem State.memRead_setIndex (s : State) (w : Word) (adr : Nat) : (s.setIndex w).memRead adr = s.memRead adr := rfl
@[simp] theorem State.memRead_setPc (s : State) (w : Word) (adr : Nat) : (s.setPc w).memRead adr = s.memRead adr := rfl
@[simp] theorem State.memRead_setStack (s : State) (k : List Word) (adr : Nat) : (s.setStack k).memRead adr = s.memRead adr := rfl
@[simp] theorem State.memRead_setDt (s : State) (b : Byte) (adr : Nat) : (s.setDt b).memRead adr = s.memRead adr := rfl
@[simp] theorem State.memRead_setSt (s : State) (b : Byte) (adr : Nat) : (s.setSt b).memRead adr = s.memRead adr := rfl
@[simp] theorem State.memRead_setFb (s : State) (f : Vector (Vector Bool 64) 32) (adr : Nat) : (s.setFb f).memRead adr = s.memRead adr := rfl
@[simp] theorem State.memRead_setDirty (s : State) (b : Bool) (adr : Nat) : (s.setDirty b).memRead adr = s.memRead adr := rfl
@[simp] theorem State.memRead_setErr (s : State) (e : Option Error) (adr : Nat) : (s.setErr e).memRead adr = s.memRead adr := rfl
@[simp] theorem State.memRead_setKeys (s : State) (k : BitVec 16) (adr : Nat) : (s.setKeys k).memRead adr = s.memRead adr := rfl
@[simp] theorem State.memRead_setAgenda (s : State) (l : List Turn) (adr : Nat) : (s.setAgenda l).memRead adr = s.memRead adr := rfl
@[simp] theorem State.memRead_bumpDraws (s : State) (adr : Nat) : (s.bumpDraws).memRead adr = s.memRead adr := rfl

/-! ## The flag -/

/-- A flag write touches VF alone. -/
theorem State.setFlag_eq (s : State) (b : Bool) : s.setFlag b = s.setReg 15 (if b then 1 else 0) := rfl

@[simp] theorem State.vf_eq (s : State) : s.vf = s.reg 15 := rfl

@[simp] theorem State.reg_setFlag (s : State) (b : Bool) (k : Fin 16) :
    (s.setFlag b).reg k = if k = 15 then (if b then 1 else 0) else s.reg k := State.reg_setReg ..

@[simp] theorem State.reg_setRegFlag (s : State) (x k : Fin 16) (r : Byte) (f : Bool) :
    (s.setRegFlag x r f).reg k = if k = 15 then (if f then 1 else 0) else if k = x then r else s.reg k := by
  simp [State.setRegFlag]

@[simp] theorem State.setFlag_index (s : State) (b : Bool) : (s.setFlag b).index = s.index := rfl
@[simp] theorem State.setFlag_pc (s : State) (b : Bool) : (s.setFlag b).pc = s.pc := rfl
@[simp] theorem State.setFlag_stack (s : State) (b : Bool) : (s.setFlag b).stack = s.stack := rfl
@[simp] theorem State.setFlag_dt (s : State) (b : Bool) : (s.setFlag b).dt = s.dt := rfl
@[simp] theorem State.setFlag_st (s : State) (b : Bool) : (s.setFlag b).st = s.st := rfl
@[simp] theorem State.setFlag_fb (s : State) (b : Bool) : (s.setFlag b).fb = s.fb := rfl
@[simp] theorem State.setFlag_dirty (s : State) (b : Bool) : (s.setFlag b).dirty = s.dirty := rfl
@[simp] theorem State.setFlag_mem (s : State) (b : Bool) : (s.setFlag b).mem = s.mem := rfl
@[simp] theorem State.setFlag_err (s : State) (b : Bool) : (s.setFlag b).err = s.err := rfl
@[simp] theorem State.setFlag_keys (s : State) (b : Bool) : (s.setFlag b).keys = s.keys := rfl
@[simp] theorem State.setFlag_cfg (s : State) (b : Bool) : (s.setFlag b).cfg = s.cfg := rfl
@[simp] theorem State.setFlag_agenda (s : State) (b : Bool) : (s.setFlag b).agenda = s.agenda := rfl
@[simp] theorem State.setFlag_draws (s : State) (b : Bool) : (s.setFlag b).draws = s.draws := rfl
@[simp] theorem State.setRegFlag_index (s : State) (x : Fin 16) (r : Byte) (f : Bool) : (s.setRegFlag x r f).index = s.index := rfl
@[simp] theorem State.setRegFlag_pc (s : State) (x : Fin 16) (r : Byte) (f : Bool) : (s.setRegFlag x r f).pc = s.pc := rfl
@[simp] theorem State.setRegFlag_stack (s : State) (x : Fin 16) (r : Byte) (f : Bool) : (s.setRegFlag x r f).stack = s.stack := rfl
@[simp] theorem State.setRegFlag_dt (s : State) (x : Fin 16) (r : Byte) (f : Bool) : (s.setRegFlag x r f).dt = s.dt := rfl
@[simp] theorem State.setRegFlag_st (s : State) (x : Fin 16) (r : Byte) (f : Bool) : (s.setRegFlag x r f).st = s.st := rfl
@[simp] theorem State.setRegFlag_fb (s : State) (x : Fin 16) (r : Byte) (f : Bool) : (s.setRegFlag x r f).fb = s.fb := rfl
@[simp] theorem State.setRegFlag_dirty (s : State) (x : Fin 16) (r : Byte) (f : Bool) : (s.setRegFlag x r f).dirty = s.dirty := rfl
@[simp] theorem State.setRegFlag_mem (s : State) (x : Fin 16) (r : Byte) (f : Bool) : (s.setRegFlag x r f).mem = s.mem := rfl
@[simp] theorem State.setRegFlag_err (s : State) (x : Fin 16) (r : Byte) (f : Bool) : (s.setRegFlag x r f).err = s.err := rfl
@[simp] theorem State.setRegFlag_keys (s : State) (x : Fin 16) (r : Byte) (f : Bool) : (s.setRegFlag x r f).keys = s.keys := rfl
@[simp] theorem State.setRegFlag_cfg (s : State) (x : Fin 16) (r : Byte) (f : Bool) : (s.setRegFlag x r f).cfg = s.cfg := rfl
@[simp] theorem State.setRegFlag_agenda (s : State) (x : Fin 16) (r : Byte) (f : Bool) : (s.setRegFlag x r f).agenda = s.agenda := rfl
@[simp] theorem State.setRegFlag_draws (s : State) (x : Fin 16) (r : Byte) (f : Bool) : (s.setRegFlag x r f).draws = s.draws := rfl

end Sys2Proof.Machine
end

