-- ==== Sys2Proof/Laws/Memory.lean ====
section
/-! SUPPORT. Memory: a read after a write, a read after a run of writes, every write keeps the canonical form, and memories in
canonical form that read alike are equal (spec/20_memory.md R47, R49). -/

namespace Sys2Proof.Machine

theorem Memory.read_insert (m : Memory) (a b : Nat) (v : Byte) (lo : Nat) (h : Memory.wfFrom lo m = true) :
    (Memory.insert m a v).read b = if b = a then v else m.read b := by
  induction m generalizing lo with
  | nil => by_cases hv : v = 0#8 <;> by_cases hb : b = a <;> simp [Memory.insert, Memory.read, hv, hb]
  | cons c m ih =>
    obtain ⟨k, w⟩ := c
    simp only [Memory.wfFrom, Bool.and_eq_true, decide_eq_true_eq] at h
    have hout : ∀ j lo', Memory.wfFrom lo' m = true → j < lo' → Memory.read m j = 0#8 := by
      clear ih h
      intro j lo' h' hj
      induction m generalizing lo' with
      | nil => rfl
      | cons c m ih =>
        obtain ⟨k, w⟩ := c
        simp only [Memory.wfFrom, Bool.and_eq_true, decide_eq_true_eq] at h'
        have hk : j ≠ k := by omega
        simpa [Memory.read, hk] using ih (k + 1) h'.2 (by omega)
    have ih' := ih (k + 1) h.2
    rcases lt_trichotomy a k with hak | hak | hak
    · by_cases hv : v = 0#8
      · subst hv
        have h0 : Memory.read m a = 0#8 := hout a (k + 1) h.2 (by omega)
        by_cases hb : b = a
        · subst hb; simp [Memory.insert, Memory.read, hak, hak.ne, h0]
        · simp [Memory.insert, hak, hb]
      · by_cases hb : b = a <;> simp [Memory.insert, Memory.read, hak, hv, hb]
    · subst hak
      by_cases hv : v = 0#8
      · subst hv
        have h0 : Memory.read m a = 0#8 := hout a (a + 1) h.2 (by omega)
        by_cases hb : b = a
        · subst hb; simp [Memory.insert, h0]
        · simp [Memory.insert, Memory.read, hb]
      · by_cases hb : b = a <;> simp [Memory.insert, Memory.read, hv, hb]
    · have h1 : ¬ a < k := by omega
      have h2 : a ≠ k := by omega
      by_cases hb : b = k
      · have : b ≠ a := by omega
        simp [Memory.insert, Memory.read, h1, h2, hb, Ne.symm h2]
      · simp [Memory.insert, Memory.read, h1, h2, hb, ih']

theorem Memory.wfFrom_insert (m : Memory) (a : Nat) (v : Byte) (ha : a ≤ 0xFFF) (lo : Nat) (hlo : lo ≤ a)
    (h : Memory.wfFrom lo m = true) : Memory.wfFrom lo (Memory.insert m a v) = true := by
  induction m generalizing lo with
  | nil => by_cases hv : v = 0#8 <;> simp [Memory.insert, Memory.wfFrom, hv, hlo, ha]
  | cons c m ih =>
    obtain ⟨k, w⟩ := c
    simp only [Memory.wfFrom, Bool.and_eq_true, decide_eq_true_eq] at h
    obtain ⟨⟨⟨h1, h2⟩, h3⟩, h4⟩ := h
    have weaken : ∀ lo' lo'' (m' : Memory), lo'' ≤ lo' → Memory.wfFrom lo' m' = true → Memory.wfFrom lo'' m' = true := by
      intro lo' lo'' m' hle hm
      cases m' with
      | nil => rfl
      | cons c m' =>
        simp only [Memory.wfFrom, Bool.and_eq_true, decide_eq_true_eq] at hm ⊢
        exact ⟨⟨⟨by omega, hm.1.1.2⟩, hm.1.2⟩, hm.2⟩
    rcases lt_trichotomy a k with hak | hak | hak
    · by_cases hv : v = 0#8
      · simp [Memory.insert, Memory.wfFrom, hak, hv, h1, h2, h3, h4]
      · simp [Memory.insert, Memory.wfFrom, hak, hv, hlo, ha, h2, h3, h4, Nat.succ_le_of_lt hak]
    · subst hak
      by_cases hv : v = 0#8
      · simpa [Memory.insert, hv] using weaken (a + 1) lo m (by omega) h4
      · simp [Memory.insert, Memory.wfFrom, hv, hlo, ha, h4]
    · have hn : ¬ a < k := by omega
      have hn' : a ≠ k := by omega
      simp [Memory.insert, Memory.wfFrom, hn, hn', h1, h2, h3, ih (k + 1) (by omega) h4]

/-- A write keeps the canonical form, whatever the address. -/
theorem Memory.wf_write (m : Memory) (a : Nat) (v : Byte) (h : m.wf = true) : (m.write a v).wf = true := by
  unfold Memory.write
  split
  · exact Memory.wfFrom_insert m a v ‹_› 0 (Nat.zero_le _) h
  · exact h

/-- A run of writes keeps the canonical form. -/
theorem Memory.wf_writeBytes (bs : List Byte) (m : Memory) (a : Nat) (h : m.wf = true) : (m.writeBytes a bs).wf = true := by
  induction bs generalizing m a with
  | nil => exact h
  | cons b bs ih => exact ih _ _ (Memory.wf_write m a b h)

/-- A read after one write: the byte at the written address, every other byte as before, and nothing at all beyond 0xFFF. -/
theorem Memory.read_write (m : Memory) (a b : Nat) (v : Byte) (h : m.wf = true) :
    (m.write a v).read b = if b = a ∧ a ≤ 0xFFF then v else m.read b := by
  unfold Memory.write
  by_cases ha : a ≤ 0xFFF
  · simp [ha, Memory.read_insert m a b v 0 h]
  · simp [ha]

/-- A read after a run of writes that stays within memory: the bytes in their order, every other byte as before. -/
theorem Memory.read_writeBytes (bs : List Byte) (m : Memory) (a b : Nat) (h : m.wf = true) (hb : a + bs.length ≤ 0x1000) :
    (m.writeBytes a bs).read b = if a ≤ b ∧ b < a + bs.length then bs.getD (b - a) 0 else m.read b := by
  induction bs generalizing m a with
  | nil => simp [Memory.writeBytes]
  | cons w bs ih =>
    simp only [List.length_cons] at hb ⊢
    rw [Memory.writeBytes, ih (m.write a w) (a + 1) (Memory.wf_write m a w h) (by omega), Memory.read_write m a b w h]
    rcases lt_trichotomy b a with hba | hba | hba
    · simp [show ¬ a + 1 ≤ b by omega, show ¬ a ≤ b by omega, show b ≠ a by omega]
    · subst hba
      simp [show b ≤ 0xFFF by omega]
    · by_cases hin : b < a + 1 + bs.length
      · have hi : b - a = (b - (a + 1)) + 1 := by omega
        rw [if_pos ⟨by omega, hin⟩, if_pos ⟨by omega, by omega⟩, hi, List.getD_cons_succ]
      · simp [hin, show ¬ b < a + (bs.length + 1) by omega, show b ≠ a by omega]

/-- No byte listed below the bound of a canonical list. -/
theorem Memory.read_of_lt (m : Memory) (lo a : Nat) (h : Memory.wfFrom lo m = true) (ha : a < lo) : m.read a = 0#8 := by
  induction m generalizing lo with
  | nil => rfl
  | cons c m ih =>
    simp only [Memory.wfFrom, Bool.and_eq_true, decide_eq_true_eq] at h
    simpa [Memory.read, show a ≠ c.1 by omega] using ih (c.1 + 1) h.2 (by omega)

/-- Memories in canonical form that read alike at every address are the same list. -/
theorem Memory.ext_of_read (m m' : Memory) (lo : Nat) (h : Memory.wfFrom lo m = true) (h' : Memory.wfFrom lo m' = true)
    (hr : ∀ a, m.read a = m'.read a) : m = m' := by
  induction m generalizing lo m' with
  | nil =>
    cases m' with
    | nil => rfl
    | cons c m' =>
      simp only [Memory.wfFrom, Bool.and_eq_true, decide_eq_true_eq] at h'
      exact absurd (by simpa [Memory.read] using (hr c.1).symm) h'.1.2
  | cons c m ih =>
    cases m' with
    | nil =>
      simp only [Memory.wfFrom, Bool.and_eq_true, decide_eq_true_eq] at h
      exact absurd (by simpa [Memory.read] using hr c.1) h.1.2
    | cons c' m' =>
      simp only [Memory.wfFrom, Bool.and_eq_true, decide_eq_true_eq] at h h'
      have key : c.1 = c'.1 := by
        rcases lt_trichotomy c.1 c'.1 with hlt | heq | hlt
        · have := hr c.1
          simp only [Memory.read, hlt.ne, if_true, if_false] at this
          exact absurd (this.trans (Memory.read_of_lt m' (c'.1 + 1) c.1 h'.2 (by omega))) h.1.2
        · exact heq
        · have := hr c'.1
          simp only [Memory.read, hlt.ne, if_true, if_false] at this
          exact absurd (this.symm.trans (Memory.read_of_lt m (c.1 + 1) c'.1 h.2 (by omega))) h'.1.2
      have val : c.2 = c'.2 := by simpa [Memory.read, key] using hr c.1
      have rest : m = m' := by
        refine ih m' (c.1 + 1) h.2 (key ▸ h'.2) fun a => ?_
        by_cases ha : a = c.1
        · subst ha
          rw [Memory.read_of_lt m (c.1 + 1) c.1 h.2 (by omega), Memory.read_of_lt m' (c.1 + 1) c.1 (key ▸ h'.2) (by omega)]
        · have ha' : a ≠ c'.1 := key ▸ ha
          simpa [Memory.read, ha, ha'] using hr a
      rw [rest, Prod.ext key val]

/-- The memory after reset is in canonical form. -/
theorem State.reset_mem_wf : State.reset.mem.wf = true := rfl

end Sys2Proof.Machine
end

