-- ==== Sys2Proof/Laws/Ops.lean ====
section
/-! SUPPORT. One lemma per shared operation of Machine/Ops.lean, Operands.lean and HostOps.lean: everything it can answer, for proofs to cite. -/

namespace Sys2Proof.Machine

/-- Raising an error always answers a next state, which differs in ERR alone (R188). -/
theorem State.raise_next (s t : State) (e : Error) : s.raise e = .next t ↔ t = { s with err := some e } := by
  simp [State.raise, State.setErr, eq_comm]

/-- What a bounds check can answer (R45). -/
theorem State.boundsChecked_next (last : Nat) (s t u : State) :
    State.boundsChecked last s t = .next u ↔
      (0xFFF < last ∧ u = { s with err := some (.dataOutOfBounds last) }) ∨ (last ≤ 0xFFF ∧ u = t) := by
  unfold State.boundsChecked
  split
  · rename_i h
    simp [State.raise_next, h, Nat.not_le.mpr h]
  · rename_i h
    simp [h, Nat.not_lt.mp h, eq_comm]

/-- What a push can answer (R184). -/
theorem State.push_next (w : Word) (s u : State) (k : State → State) :
    s.push w k = .next u ↔
      (s.cfg.stackDepth ≤ s.stack.length ∧ u = { s with err := some .stackOverflow }) ∨
      (s.stack.length < s.cfg.stackDepth ∧ u = k (s.setStack (w :: s.stack))) := by
  unfold State.push
  split
  · rename_i h
    simp [State.raise_next, h, Nat.not_lt.mpr h]
  · rename_i h
    simp [h, Nat.not_le.mp h, eq_comm]

/-- What a pop can answer (R183). -/
theorem State.pop_next (s u : State) (k : Word → State → State) :
    s.pop k = .next u ↔
      (s.stack = [] ∧ u = { s with err := some .stackUnderflow }) ∨
      (∃ w rest, s.stack = w :: rest ∧ u = k w (s.setStack rest)) := by
  unfold State.pop
  split <;> rename_i h
  · rw [State.raise_next]
    simp [h]
  · simp [h, eq_comm]

/-- A skip writes PC alone (R13). -/
theorem State.skipIf_eq (c : Bool) (s : State) :
    s.skipIf c = { s with pc := if c then s.pc + 2 else s.pc } := by
  cases c <;> rfl

/-- A skip leaves everything but PC (R13). -/
theorem State.skipIf_frame (c : Bool) (s : State) : s.skipIf c = { s with pc := (s.skipIf c).pc } := by
  cases c <;> rfl

/-- An address immediate keeps its number (R63). -/
theorem addr16_toNat (nnn : BitVec 12) : (addr16 nnn).toNat = nnn.toNat := by
  simp [addr16]
  omega

/-- What a fetch can do (R84, R93). -/
theorem State.fetch_cases (s : State) :
    (s.err ≠ none ∧ s.fetch = (none, s)) ∨
    (s.err = none ∧ 0xFFF ≤ s.pc.toNat ∧ s.fetch = (none, { s with err := some (.outOfBounds s.pc) })) ∨
    (s.err = none ∧ s.pc.toNat < 0xFFF ∧
      s.fetch = (some (wordOfBytes (s.memRead s.pc.toNat) (s.memRead (s.pc.toNat + 1))), { s with pc := s.pc + 2 })) := by
  unfold State.fetch
  cases he : s.err with
  | some e => simp
  | none =>
    by_cases hp : 0xFFF ≤ s.pc.toNat
    · simp [hp, State.setErr]
    · simp [hp, he, State.setPc, Nat.not_le.mp hp]

/-- A fetch neither reads nor writes the agenda (R84). -/
theorem State.fetch_setAgenda (l : List Turn) (s : State) : (s.setAgenda l).fetch = (s.fetch.1, s.fetch.2.setAgenda l) := by
  unfold State.fetch
  rw [State.setAgenda_err, State.setAgenda_pc]
  split
  · rfl
  · split <;> rfl

/-- A run of stores writes MEM alone. -/
theorem State.memWriteBytes_eq (a : Nat) (bs : List Byte) (s : State) :
    s.memWriteBytes a bs = { s with mem := s.mem.writeBytes a bs } := rfl

/-- A read after a run of stores within memory (R47, R49). -/
theorem State.memRead_memWriteBytes (a b : Nat) (bs : List Byte) (s : State) (h : s.mem.wf = true)
    (hb : a + bs.length ≤ 0x1000) :
    (s.memWriteBytes a bs).memRead b = if a ≤ b ∧ b < a + bs.length then bs.getD (b - a) 0 else s.memRead b :=
  Memory.read_writeBytes bs s.mem a b h hb

/-- The bytes of a block store are V[0], V[1], ... in order (R162). -/
theorem State.firstRegs_getD (x : Fin 16) (s : State) (k : Fin 16) (h : k ≤ x) : (s.firstRegs x).getD k.val 0 = s.reg k := by
  have hk : k.val < x.val + 1 := Nat.lt_succ_of_le h
  have hl : k.val < (s.firstRegs x).length := by simp [State.firstRegs]; omega
  rw [List.getD_eq_getElem _ _ hl]
  simp [State.firstRegs, State.reg]

/-- A block store writes x + 1 bytes (R162). -/
theorem State.firstRegs_length (x : Fin 16) (s : State) : (s.firstRegs x).length = x.val + 1 := by
  simp [State.firstRegs]

/-- The registers after a block load (R163). -/
theorem State.reg_loadedRegs (x k : Fin 16) (s : State) :
    (s.setRegs (s.loadedRegs x)).reg k = if k ≤ x then s.memRead (s.index.toNat + k.val) else s.reg k := by
  rw [State.reg_setRegs]
  show (State.loadedRegs x s)[k.val] = _
  rw [State.loadedRegs, Vector.getElem_ofFn]
  rfl

/-- While some key is down, the key reported is down (R152). -/
theorem keyFrom_down (keys : BitVec 16) (start : Fin 16) (h : keys ≠ 0) : keys.getLsbD (keyFrom keys start).val = true := by
  unfold keyFrom
  split
  · rename_i j hj
    have := List.find?_some hj
    exact this
  · rename_i hnone
    exfalso
    apply h
    apply BitVec.eq_of_getLsbD_eq
    intro k hk
    have := List.find?_eq_none.mp hnone (⟨k, hk⟩ - start) (List.mem_finRange _)
    simpa using this

/-- The search reports its first digit when that key is down, so every key that is down can be reported (R152 (b)). -/
theorem keyFrom_of_down (keys : BitVec 16) (k : Fin 16) (h : keys.getLsbD k.val = true) : keyFrom keys k = k := by
  unfold keyFrom
  have : (List.finRange 16).find? (fun j => keys.getLsbD (k + j).val) = some 0 := by
    rw [List.finRange_succ]
    simp only [List.find?_cons, add_zero, h]
  rw [this]
  exact add_zero k

/-- One tick of one counter (R87). -/
theorem tickDown_toNat (b : Byte) : (tickDown b).toNat = b.toNat - 1 := by
  unfold tickDown
  split
  · simp_all
  · rename_i h
    have : b.toNat ≠ 0 := fun h0 => h (BitVec.eq_of_toNat_eq (by simpa using h0))
    rw [BitVec.toNat_sub]
    have := b.isLt
    simp only [BitVec.toNat_ofNat]
    omega

/-- The pixels after a draw (R141 step 5). -/
theorem State.drawn_pixel (s : State) (x0 y0 rows : Nat) (py : Fin 32) (px : Fin 64) :
    (s.drawn x0 y0 rows)[py][px] = (s.pixel py px != s.spriteBit x0 y0 rows py px) := by
  simp [State.drawn, State.pixel]

/-- The collision flag is about some pixel that is set and under a set sprite bit (R141 steps 4 to 6). -/
theorem State.collides_iff (s : State) (x0 y0 rows : Nat) :
    s.collides x0 y0 rows = true ↔ ∃ py px, s.spriteBit x0 y0 rows py px = true ∧ s.pixel py px = true := by
  simp [State.collides, State.pixel]

/-- A drawn sprite changes the buffer, VF and DIRTY alone (R141 steps 5 to 7). -/
theorem State.drawSprite_eq (x0 y0 rows : Nat) (s : State) :
    s.drawSprite x0 y0 rows =
      { s with fb := s.drawn x0 y0 rows, v := s.v.set 15 (if s.collides x0 y0 rows then 1 else 0), dirty := true } := by
  unfold State.drawSprite
  generalize s.collides x0 y0 rows = c
  generalize s.drawn x0 y0 rows = f
  rfl

/-- What a key test can answer (R150, R151, R186). -/
theorem State.skipOnKey_next (x : Fin 16) (down : Bool) (s u : State) :
    s.skipOnKey x down = .next u ↔
      (0x0F < (s.reg x).toNat ∧ u = { s with err := some (.keyOutOfRange (s.reg x)) }) ∨
      ((s.reg x).toNat ≤ 0x0F ∧ u = s.skipIf (s.keys.getLsbD (s.reg x).toNat == down)) := by
  unfold State.skipOnKey
  split
  · rename_i h
    simp [State.raise_next, h, Nat.not_le.mpr h]
  · rename_i h
    simp [h, Nat.not_lt.mp h, eq_comm]

/-- What a load can answer (R83, R198). -/
theorem State.loadProgram_ok (bytes : List Byte) (s t : State) :
    s.loadProgram bytes = .ok t ↔ bytes.length ≤ 3584 ∧ t = (s.memWriteBytes 0x200 bytes).setPc 0x200 := by
  unfold State.loadProgram
  split
  · rename_i h
    simp [Nat.not_le.mpr h]
  · rename_i h
    simp [Nat.not_lt.mp h, eq_comm]

end Sys2Proof.Machine
end

