-- ==== Sys2Proof/Laws/Exec.lean ====
section
/-! SUPPORT. One lemma per instruction: exactly which next states its meaning answers. A proof about an instruction cites its lemma
and does not unfold the meaning. No meaning faults or refuses. -/

namespace Sys2Proof.Machine

/-! ## Instructions that raise nothing (spec/60_exceptions.md R190) -/

/-- R101. -/
theorem exec_jp (nnn : BitVec 12) (s : State) : exec (.jp nnn) s = .next (s.setPc (addr16 nnn)) := rfl

/-- R103. -/
theorem exec_seImm (x : Fin 16) (nn : Byte) (s : State) : exec (.seImm x nn) s = .next (s.skipIf (s.reg x == nn)) := rfl

/-- R104. -/
theorem exec_sneImm (x : Fin 16) (nn : Byte) (s : State) : exec (.sneImm x nn) s = .next (s.skipIf (s.reg x != nn)) := rfl

/-- R105. -/
theorem exec_seReg (x y : Fin 16) (s : State) : exec (.seReg x y) s = .next (s.skipIf (s.reg x == s.reg y)) := rfl

/-- R106. -/
theorem exec_sneReg (x y : Fin 16) (s : State) : exec (.sneReg x y) s = .next (s.skipIf (s.reg x != s.reg y)) := rfl

/-- R107. -/
theorem exec_jpV0 (nnn : BitVec 12) (s : State) : exec (.jpV0 nnn) s = .next (s.setPc (addr16 nnn + (s.jumpOffset nnn).setWidth 16)) := rfl

/-- R110. -/
theorem exec_ldImm (x : Fin 16) (nn : Byte) (s : State) : exec (.ldImm x nn) s = .next (s.setReg x nn) := rfl

/-- R111. -/
theorem exec_addImm (x : Fin 16) (nn : Byte) (s : State) : exec (.addImm x nn) s = .next (s.setReg x (s.reg x + nn)) := rfl

/-- R112. -/
theorem exec_ldReg (x y : Fin 16) (s : State) : exec (.ldReg x y) s = .next (s.setReg x (s.reg y)) := rfl

/-- R113. -/
theorem exec_orReg (x y : Fin 16) (s : State) : exec (.orReg x y) s = .next (s.setReg x (s.reg x ||| s.reg y)) := rfl

/-- R114. -/
theorem exec_andReg (x y : Fin 16) (s : State) : exec (.andReg x y) s = .next (s.setReg x (s.reg x &&& s.reg y)) := rfl

/-- R115. -/
theorem exec_xorReg (x y : Fin 16) (s : State) : exec (.xorReg x y) s = .next (s.setReg x (s.reg x ^^^ s.reg y)) := rfl

/-- R116. -/
theorem exec_addReg (x y : Fin 16) (s : State) : exec (.addReg x y) s = .next (s.setRegFlag x (s.reg x + s.reg y) (carryOut (s.reg x) (s.reg y))) := rfl

/-- R117. -/
theorem exec_subReg (x y : Fin 16) (s : State) : exec (.subReg x y) s = .next (s.setRegFlag x (s.reg x - s.reg y) (noBorrow (s.reg x) (s.reg y))) := rfl

/-- R118. -/
theorem exec_shr (x y : Fin 16) (s : State) : exec (.shr x y) s = .next (s.setRegFlag x (s.shiftSource x y >>> 1) (outRight (s.shiftSource x y))) := rfl

/-- R119. -/
theorem exec_subn (x y : Fin 16) (s : State) : exec (.subn x y) s = .next (s.setRegFlag x (s.reg y - s.reg x) (noBorrow (s.reg y) (s.reg x))) := rfl

/-- R120. -/
theorem exec_shl (x y : Fin 16) (s : State) : exec (.shl x y) s = .next (s.setRegFlag x (s.shiftSource x y <<< 1) (outLeft (s.shiftSource x y))) := rfl

/-- R130. -/
theorem exec_ldI (nnn : BitVec 12) (s : State) : exec (.ldI nnn) s = .next (s.setIndex (addr16 nnn)) := rfl

/-- R132. -/
theorem exec_rnd (x : Fin 16) (nn : Byte) (s : State) : exec (.rnd x nn) s = .next ((s.setReg x ((Config.rand16 s.draws).setWidth 8 &&& nn)).bumpDraws) := rfl

/-- R140. -/
theorem exec_cls (s : State) : exec .cls s = .next ((s.setFb (Vector.replicate 32 (Vector.replicate 64 false))).setDirty true) := rfl

/-- R153. -/
theorem exec_ldFromDt (x : Fin 16) (s : State) : exec (.ldFromDt x) s = .next (s.setReg x s.dt) := rfl

/-- R154. -/
theorem exec_ldDt (x : Fin 16) (s : State) : exec (.ldDt x) s = .next (s.setDt (s.reg x)) := rfl

/-- R155. -/
theorem exec_ldSt (x : Fin 16) (s : State) : exec (.ldSt x) s = .next (s.setSt (s.reg x)) := rfl

/-- R131, `Q_INDEX_OVF`. -/
theorem exec_addI_wrap (x : Fin 16) (s : State) (h : s.cfg.qIndexOvf = true) :
    exec (.addI x) s =
      .next ((s.setIndex (BitVec.ofNat 16 (s.indexSum x % 0x1000))).setFlag (indexOut (s.indexSum x))) := by
  simp [exec, execAddI, h]

/-- R131, not `Q_INDEX_OVF`. -/
theorem exec_addI_plain (x : Fin 16) (s : State) (h : s.cfg.qIndexOvf = false) :
    exec (.addI x) s = .next (s.setIndex (BitVec.ofNat 16 (s.indexSum x % 0x10000))) := by
  simp [exec, execAddI, h]

/-- R152, no key down. -/
theorem exec_ldKey_wait (x : Fin 16) (s : State) (h : s.keys = 0#16) : exec (.ldKey x) s = .next (s.setPc (s.pc - 2)) := by
  simp [exec, execLdKey, h]

/-- R152, some key down. -/
theorem exec_ldKey_store (x : Fin 16) (s : State) (h : s.keys ≠ 0#16) :
    exec (.ldKey x) s = .next ((s.setReg x (BitVec.ofNat 8 s.reportedKey.val)).bumpDraws) := by
  simp [exec, execLdKey, h]

/-! ## Instructions that can raise an error -/

/-- R102, R184. -/
theorem exec_call_next (nnn : BitVec 12) (s t : State) :
    exec (.call nnn) s = .next t ↔
      (s.cfg.stackDepth ≤ s.stack.length ∧ t = { s with err := some .stackOverflow }) ∨
      (s.stack.length < s.cfg.stackDepth ∧ t = (s.setStack (s.pc :: s.stack)).setPc (addr16 nnn)) := State.push_next ..

/-- R100, R183. -/
theorem exec_ret_next (s t : State) :
    exec .ret s = .next t ↔
      (s.stack = [] ∧ t = { s with err := some .stackUnderflow }) ∨
      (∃ w rest, s.stack = w :: rest ∧ t = (s.setStack rest).setPc w) := State.pop_next ..

/-- R150, R186. -/
theorem exec_skp_next (x : Fin 16) (s t : State) :
    exec (.skp x) s = .next t ↔
      (0x0F < (s.reg x).toNat ∧ t = { s with err := some (.keyOutOfRange (s.reg x)) }) ∨
      ((s.reg x).toNat ≤ 0x0F ∧ t = s.skipIf (s.keys.getLsbD (s.reg x).toNat == true)) := State.skipOnKey_next ..

/-- R151, R186. -/
theorem exec_sknp_next (x : Fin 16) (s t : State) :
    exec (.sknp x) s = .next t ↔
      (0x0F < (s.reg x).toNat ∧ t = { s with err := some (.keyOutOfRange (s.reg x)) }) ∨
      ((s.reg x).toNat ≤ 0x0F ∧ t = s.skipIf (s.keys.getLsbD (s.reg x).toNat == false)) := State.skipOnKey_next ..

/-- R161, R185. -/
theorem exec_ldB_next (x : Fin 16) (s t : State) :
    exec (.ldB x) s = .next t ↔
      (0xFFF < s.index.toNat + 2 ∧ t = { s with err := some (.dataOutOfBounds (s.index.toNat + 2)) }) ∨
      (s.index.toNat + 2 ≤ 0xFFF ∧ t = s.memWriteBytes s.index.toNat (bcdDigits (s.reg x))) := State.boundsChecked_next ..

/-- R162, R185. -/
theorem exec_ldStore_next (x : Fin 16) (s t : State) :
    exec (.ldStore x) s = .next t ↔
      (0xFFF < s.index.toNat + x.val ∧ t = { s with err := some (.dataOutOfBounds (s.index.toNat + x.val)) }) ∨
      (s.index.toNat + x.val ≤ 0xFFF ∧ t = s.memWriteBytes s.index.toNat (s.firstRegs x)) := State.boundsChecked_next ..

/-- R163, R185. -/
theorem exec_ldLoad_next (x : Fin 16) (s t : State) :
    exec (.ldLoad x) s = .next t ↔
      (0xFFF < s.index.toNat + x.val ∧ t = { s with err := some (.dataOutOfBounds (s.index.toNat + x.val)) }) ∨
      (s.index.toNat + x.val ≤ 0xFFF ∧ t = s.setRegs (s.loadedRegs x)) := State.boundsChecked_next ..

/-- R160, R187. -/
theorem exec_ldF_next (x : Fin 16) (s t : State) :
    exec (.ldF x) s = .next t ↔
      (0x0F < (s.reg x).toNat ∧ t = { s with err := some (.digitOutOfRange (s.reg x)) }) ∨
      ((s.reg x).toNat ≤ 0x0F ∧ t = s.setIndex (s.glyphAddr (s.reg x))) := by
  simp only [exec, execLdF]
  split <;> rename_i h
  · rw [State.raise_next]
    simp [h, Nat.not_le.mpr h]
  · simp [h, Nat.not_lt.mp h, eq_comm]

/-- R141, R185, with y0 the starting row: the rows drawn are `min n (32 - y0)`, and drawing none of them reads nothing. -/
theorem exec_drw_next (x y : Fin 16) (n : Nat) (s t : State) :
    exec (.drw x y n) s = .next t ↔
      (0 < min n (32 - s.drawRow y) ∧ 0xFFF < s.index.toNat + (min n (32 - s.drawRow y) - 1) ∧
        t = { s with err := some (.dataOutOfBounds (s.index.toNat + (min n (32 - s.drawRow y) - 1))) }) ∨
      ((min n (32 - s.drawRow y) = 0 ∨ s.index.toNat + (min n (32 - s.drawRow y) - 1) ≤ 0xFFF) ∧
        t = s.drawSprite (s.drawCol x) (s.drawRow y) (min n (32 - s.drawRow y))) := by
  show (if min n (32 - s.drawRow y) = 0 then Host.Outcome.next (s.drawSprite (s.drawCol x) (s.drawRow y) 0)
    else State.boundsChecked (s.index.toNat + (min n (32 - s.drawRow y) - 1)) s
      (s.drawSprite (s.drawCol x) (s.drawRow y) (min n (32 - s.drawRow y)))) = .next t ↔ _
  split <;> rename_i h
  · simp [h, eq_comm]
  · rw [State.boundsChecked_next]
    simp [h, Nat.pos_of_ne_zero h]

end Sys2Proof.Machine
end

