-- ==== Sys2Proof/Laws/PerInstr.lean ====
section
/-! SUPPORT. Statements for all instructions, one lemma per constructor. TableRow: the encoder's word belongs to the instruction's
row of the opcode table (spec/30_encoding.md R73). -/

namespace Sys2Proof.Laws

/-- The word of the instruction matches the match and mask of its row. -/
def TableRow.Statement (i : Instr) : Prop := (tableRow i).accepts (encode i) = true

/-- A word of format NNN in a row that fixes `op` alone. -/
theorem accepts_formNNN (op : Nat) (nnn : BitVec 12) (h : op < 16) :
    (OpcodeRow.mk (BitVec.ofNat 16 (op * 0x1000)) 0xF000).accepts (formNNN op nnn) = true := by
  have := nnn.isLt
  rw [OpcodeRow.accepts_iff]
  show (_ &&& 0xF000#16).toNat = _
  rw [and_F000, formNNN_toNat op nnn h, BitVec.toNat_ofNat]
  omega

/-- A word of format XNN in a row that fixes `op` alone. -/
theorem accepts_formXNN (op : Nat) (x : Fin 16) (nn : Byte) (h : op < 16) :
    (OpcodeRow.mk (BitVec.ofNat 16 (op * 0x1000)) 0xF000).accepts (formXNN op x nn) = true := by
  have := nn.isLt
  rw [OpcodeRow.accepts_iff]
  show (_ &&& 0xF000#16).toNat = _
  rw [and_F000, formXNN_toNat op x nn h, BitVec.toNat_ofNat]
  omega

/-- A word of format X in a row that fixes `op` and `nn`. -/
theorem accepts_formX (op : Nat) (x : Fin 16) (nn : Byte) (h : op < 16) :
    (OpcodeRow.mk (BitVec.ofNat 16 (op * 0x1000 + nn.toNat)) 0xF0FF).accepts (formXNN op x nn) = true := by
  have := nn.isLt
  rw [OpcodeRow.accepts_iff]
  show (_ &&& 0xF0FF#16).toNat = _
  rw [and_F0FF, formXNN_toNat op x nn h, BitVec.toNat_ofNat]
  omega

/-- A word of format XY in a row that fixes `op` and `n`. -/
theorem accepts_formXY (op : Nat) (x y : Fin 16) (n : Nat) (h : op < 16) (hn : n < 16) :
    (OpcodeRow.mk (BitVec.ofNat 16 (op * 0x1000 + n)) 0xF00F).accepts (formXYN op x y n) = true := by
  rw [OpcodeRow.accepts_iff]
  show (_ &&& 0xF00F#16).toNat = _
  rw [and_F00F, formXYN_toNat op x y n h, BitVec.toNat_ofNat]
  omega

/-- A word of format XYN in a row that fixes `op` alone. -/
theorem accepts_formXYN (op : Nat) (x y : Fin 16) (n : Nat) (h : op < 16) :
    (OpcodeRow.mk (BitVec.ofNat 16 (op * 0x1000)) 0xF000).accepts (formXYN op x y n) = true := by
  rw [OpcodeRow.accepts_iff]
  show (_ &&& 0xF000#16).toNat = _
  rw [and_F000, formXYN_toNat op x y n h, BitVec.toNat_ofNat]
  omega

theorem TableRow.jp (nnn : BitVec 12) : TableRow.Statement (.jp nnn) := accepts_formNNN 0x1 nnn (by decide)

theorem TableRow.call (nnn : BitVec 12) : TableRow.Statement (.call nnn) := accepts_formNNN 0x2 nnn (by decide)

theorem TableRow.ret : TableRow.Statement .ret := by unfold TableRow.Statement; decide

theorem TableRow.seImm (x : Fin 16) (nn : Byte) : TableRow.Statement (.seImm x nn) := accepts_formXNN 0x3 x nn (by decide)

theorem TableRow.sneImm (x : Fin 16) (nn : Byte) : TableRow.Statement (.sneImm x nn) := accepts_formXNN 0x4 x nn (by decide)

theorem TableRow.seReg (x y : Fin 16) : TableRow.Statement (.seReg x y) := accepts_formXY 0x5 x y 0x0 (by decide) (by decide)

theorem TableRow.sneReg (x y : Fin 16) : TableRow.Statement (.sneReg x y) := accepts_formXY 0x9 x y 0x0 (by decide) (by decide)

theorem TableRow.jpV0 (nnn : BitVec 12) : TableRow.Statement (.jpV0 nnn) := accepts_formNNN 0xB nnn (by decide)

theorem TableRow.ldImm (x : Fin 16) (nn : Byte) : TableRow.Statement (.ldImm x nn) := accepts_formXNN 0x6 x nn (by decide)

theorem TableRow.addImm (x : Fin 16) (nn : Byte) : TableRow.Statement (.addImm x nn) := accepts_formXNN 0x7 x nn (by decide)

theorem TableRow.ldReg (x y : Fin 16) : TableRow.Statement (.ldReg x y) := accepts_formXY 0x8 x y 0x0 (by decide) (by decide)

theorem TableRow.orReg (x y : Fin 16) : TableRow.Statement (.orReg x y) := accepts_formXY 0x8 x y 0x1 (by decide) (by decide)

theorem TableRow.andReg (x y : Fin 16) : TableRow.Statement (.andReg x y) := accepts_formXY 0x8 x y 0x2 (by decide) (by decide)

theorem TableRow.xorReg (x y : Fin 16) : TableRow.Statement (.xorReg x y) := accepts_formXY 0x8 x y 0x3 (by decide) (by decide)

theorem TableRow.addReg (x y : Fin 16) : TableRow.Statement (.addReg x y) := accepts_formXY 0x8 x y 0x4 (by decide) (by decide)

theorem TableRow.subReg (x y : Fin 16) : TableRow.Statement (.subReg x y) := accepts_formXY 0x8 x y 0x5 (by decide) (by decide)

theorem TableRow.shr (x y : Fin 16) : TableRow.Statement (.shr x y) := accepts_formXY 0x8 x y 0x6 (by decide) (by decide)

theorem TableRow.subn (x y : Fin 16) : TableRow.Statement (.subn x y) := accepts_formXY 0x8 x y 0x7 (by decide) (by decide)

theorem TableRow.shl (x y : Fin 16) : TableRow.Statement (.shl x y) := accepts_formXY 0x8 x y 0xE (by decide) (by decide)

theorem TableRow.ldI (nnn : BitVec 12) : TableRow.Statement (.ldI nnn) := accepts_formNNN 0xA nnn (by decide)

theorem TableRow.addI (x : Fin 16) : TableRow.Statement (.addI x) := accepts_formX 0xF x 0x1E (by decide)

theorem TableRow.rnd (x : Fin 16) (nn : Byte) : TableRow.Statement (.rnd x nn) := accepts_formXNN 0xC x nn (by decide)

theorem TableRow.drw (x y : Fin 16) (n : Nat) : TableRow.Statement (.drw x y n) := accepts_formXYN 0xD x y n (by decide)

theorem TableRow.cls : TableRow.Statement .cls := by unfold TableRow.Statement; decide

theorem TableRow.skp (x : Fin 16) : TableRow.Statement (.skp x) := accepts_formX 0xE x 0x9E (by decide)

theorem TableRow.sknp (x : Fin 16) : TableRow.Statement (.sknp x) := accepts_formX 0xE x 0xA1 (by decide)

theorem TableRow.ldKey (x : Fin 16) : TableRow.Statement (.ldKey x) := accepts_formX 0xF x 0x0A (by decide)

theorem TableRow.ldFromDt (x : Fin 16) : TableRow.Statement (.ldFromDt x) := accepts_formX 0xF x 0x07 (by decide)

theorem TableRow.ldDt (x : Fin 16) : TableRow.Statement (.ldDt x) := accepts_formX 0xF x 0x15 (by decide)

theorem TableRow.ldSt (x : Fin 16) : TableRow.Statement (.ldSt x) := accepts_formX 0xF x 0x18 (by decide)

theorem TableRow.ldB (x : Fin 16) : TableRow.Statement (.ldB x) := accepts_formX 0xF x 0x33 (by decide)

theorem TableRow.ldStore (x : Fin 16) : TableRow.Statement (.ldStore x) := accepts_formX 0xF x 0x55 (by decide)

theorem TableRow.ldLoad (x : Fin 16) : TableRow.Statement (.ldLoad x) := accepts_formX 0xF x 0x65 (by decide)

theorem TableRow.ldF (x : Fin 16) : TableRow.Statement (.ldF x) := accepts_formX 0xF x 0x29 (by decide)

end Sys2Proof.Laws
end

