-- ==== Sys2Proof/Laws/Step.lean ====
section
/-! SUPPORT. What `decode_execute`, a Step of the core and a step of the machine can do, said once (spec/40_step_and_host_ops.md R85,
R86, R92, R93): invariants are derived from these and not by unfolding the step. -/

namespace Sys2Proof.Machine

/-- `decode_execute` reaches a next state only with ERR clear, by an unknown word's error or by the instruction's rule. -/
theorem State.decodeExecute_next (w : Word) (s t : State) :
    s.decodeExecute w = .next t ↔
      s.err = none ∧
        ((∃ f, decode w = .error f ∧ t = { s with err := some (.unknownOpcode w f) }) ∨
          ∃ i, decode w = .ok i ∧ exec i s = .next t) := by
  unfold State.decodeExecute
  cases he : s.err with
  | some e => simp
  | none =>
    cases hd : decode w with
    | error f => simp [State.raise_next]
    | ok i => simp

/-- The word at PC, as fetch reads it (R42). -/
def State.wordAtPc (s : State) : Word := wordOfBytes (s.memRead s.pc.toNat) (s.memRead (s.pc.toNat + 1))

/-- A Step of the core reaches a next state in one of three ways: a failed fetch, an unknown word, or the rule of the
instruction at PC run with PC advanced. -/
theorem State.coreStep_next (s t : State) :
    s.coreStep = .next t ↔
      s.err = none ∧
        ((0xFFF ≤ s.pc.toNat ∧ t = { s with err := some (.outOfBounds s.pc) }) ∨
          (s.pc.toNat < 0xFFF ∧
            ((∃ f, decode s.wordAtPc = .error f ∧
                t = { s with pc := s.pc + 2, err := some (.unknownOpcode s.wordAtPc f) }) ∨
              ∃ i, decode s.wordAtPc = .ok i ∧ exec i { s with pc := s.pc + 2 } = .next t))) := by
  unfold State.coreStep
  rcases s.fetch_cases with ⟨he, _⟩ | ⟨he, hp, hf⟩ | ⟨he, hp, hf⟩
  · cases hs : s.err with
    | none => exact absurd hs he
    | some e => simp
  · simp only [he, hf, true_and]
    constructor
    · intro h
      cases h
      exact .inl ⟨hp, rfl⟩
    · rintro (⟨-, rfl⟩ | ⟨hp', -⟩)
      · rfl
      · omega
  · simp only [he, hf, true_and]
    rw [State.decodeExecute_next]
    constructor
    · rintro ⟨-, h⟩
      exact .inr ⟨hp, h⟩
    · rintro (⟨hp', -⟩ | ⟨-, h⟩)
      · omega
      · exact ⟨rfl, h⟩

/-- A Step of the core stops only when ERR is latched (R93). -/
theorem State.coreStep_halted (s : State) (e : Error) (h : s.err = some e) : s.coreStep = .fault (.halted e) := by
  simp [State.coreStep, h]

/-- What a halted core answers, and a core that runs (R93). -/
theorem State.unlessHalted_next (s t : State) (r : Result) :
    s.unlessHalted r = .next t ↔ (s.err = none ∧ r = .next t) ∨ (s.err ≠ none ∧ t = s) := by
  cases he : s.err <;> simp [State.unlessHalted, he, eq_comm]

/-- A fetch in a halted core does nothing (R93). -/
theorem State.fetch_halted (s : State) (h : s.err ≠ none) : s.fetch = (none, s) := by
  rcases s.fetch_cases with ⟨-, hf⟩ | ⟨he, -⟩ | ⟨he, -⟩
  · exact hf
  · exact absurd he h
  · exact absurd he h

/-- A turn that executes nothing, and any turn of the core while halted, always answers this next state (R81 to R84, R87 to R89,
R93). -/
def State.turnState (turn : Turn) (s : State) : State :=
  match turn with
  | .core => s
  | .fetch => s.fetch.2
  | .decodeExecute _ => s
  | .tick => s.tickTimers
  | .keys k => s.setKeys k
  | .clearDirty => s.clearDirty
  | .initFont => s.initFont
  | .loadProgram bytes => if bytes.length ≤ 3584 then (s.memWriteBytes 0x200 bytes).setPc 0x200 else s
  | .reset => s.hostReset

/-- What a turn can do: a Step or a `decode_execute` of a core that is not halted, or the one state of another operation. -/
theorem State.runTurn_next (turn : Turn) (s t : State) :
    s.runTurn turn = .next t ↔
      (turn = .core ∧ s.err = none ∧ s.coreStep = .next t) ∨
        (∃ w, turn = .decodeExecute w ∧ s.err = none ∧ s.decodeExecute w = .next t) ∨
        (((turn ≠ .core ∧ ∀ w, turn ≠ .decodeExecute w) ∨ s.err ≠ none) ∧ t = s.turnState turn) := by
  cases turn with
  | core => simp [State.runTurn, State.turnState, State.unlessHalted_next]
  | decodeExecute w => simp [State.runTurn, State.turnState, State.unlessHalted_next]
  | fetch => simp [State.runTurn, State.turnState, eq_comm]
  | loadProgram bytes =>
    by_cases hl : bytes.length ≤ 3584
    · simp [State.runTurn, State.turnState, State.loadProgram, hl, Nat.not_lt.mpr hl, eq_comm]
    · simp [State.runTurn, State.turnState, State.loadProgram, hl, Nat.not_le.mp hl, eq_comm]
  | tick => simp [State.runTurn, State.turnState, eq_comm]
  | keys k => simp [State.runTurn, State.turnState, eq_comm]
  | clearDirty => simp [State.runTurn, State.turnState, eq_comm]
  | initFont => simp [State.runTurn, State.turnState, eq_comm]
  | reset => simp [State.runTurn, State.turnState, eq_comm]

/-- What a step of the machine can do: with nothing waiting a Step of the core, otherwise the first turn of the agenda. -/
theorem step_next (s t : State) :
    step s = .next t ↔
      (s.agenda = [] ∧ s.coreStep = .next t) ∨
        ∃ turn rest, s.agenda = turn :: rest ∧ (s.setAgenda rest).runTurn turn = .next t := by
  unfold step State.nextTurn
  cases ha : s.agenda with
  | nil => simp
  | cons turn rest => simp

end Sys2Proof.Machine
end

