-- ==== Sys2Proof/Tests/Slice0.lean ====
section
/-! SUPPORT. Tests whose expected results come from the spec (spec/95_test_vectors.md, the examples of the rules, the encodings of
spec/30_encoding.md R73), the smoke test of the checks in WellFormed.lean, and for every statement with hypotheses a witness that
meets them, clause by clause at the boundary values. -/

open Sys2Proof Sys2Proof.Machine

namespace Sys2Proof.Tests

/-! ## Small states -/

/-- Reset with PC at 0x200 and some registers set. -/
def regs (l : List (Fin 16 × Byte)) : State := { l.foldl (fun s p => s.setReg p.1 p.2) State.reset with pc := 0x200 }

/-- `regs l` with I set and bytes of memory stored from I on. -/
def atI (i : Word) (bytes : List Byte) (l : List (Fin 16 × Byte)) : State :=
  { (regs l).memWriteBytes i.toNat bytes with index := i }

/-- The other value of every quirk. -/
def otherQuirks : Config := { defaultConfig with qJumpVx := true, qShiftVy := false, qIndexOvf := false }

/-- What `f` sees after a Step of the word at PC. -/
def after (w : Nat) (s : State) {α : Type} (f : State → α) : Option α :=
  match step (s.withFetchWord 16 w) with
  | .next t => some (f t)
  | _ => none

/-- The row `y` of the display as a number, column 0 on top. -/
def rowBits (y : Fin 32) (s : State) : Nat := s.fb[y].toList.foldl (fun n b => 2 * n + b.toNat) 0

/-- A state in which ERR is latched. -/
def haltedState : State := { regs [] with err := some .stackUnderflow }

/-! ## The checks of WellFormed.lean refuse ill-formed terms -/

theorem test_wellFormed_drw_count : (Instr.drw 0 0 16).wellFormed = false ∧ (Instr.drw 15 15 15).wellFormed = true := by decide

theorem test_wellFormed_font_region :
    ({ defaultConfig with fontBase := 0x1B1 } : Config).wellFormed = false ∧
      ({ defaultConfig with fontBase := 0x1B0 } : Config).wellFormed = true ∧ defaultConfig.wellFormed = true := by decide

theorem test_memory_wf_refuses :
    Memory.wf [(5, 1), (5, 2)] = false ∧ Memory.wf [(6, 1), (5, 2)] = false ∧ Memory.wf [(5, 0)] = false ∧
      Memory.wf [(0x1000, 1)] = false ∧ Memory.wf [(0, 1), (0xFFF, 2)] = true := by decide

/-! ## Decoding: one word per constructor, written field by field from the patterns of R73 -/

theorem test_decode_control_flow :
    decode (0b0001#4 ++ 0xABC#12) = .ok (.jp 0xABC) ∧ decode (0b0010#4 ++ 0xFFF#12) = .ok (.call 0xFFF) ∧
      decode (0b0000000011101110#16) = .ok .ret ∧ decode (0b0011#4 ++ 0b1010#4 ++ 0b01000010#8) = .ok (.seImm 10 0x42) ∧
      decode (0b0100#4 ++ 0b0011#4 ++ 0b00101010#8) = .ok (.sneImm 3 0x2A) ∧
      decode (0b0101#4 ++ 0b0001#4 ++ 0b0010#4 ++ 0b0000#4) = .ok (.seReg 1 2) ∧
      decode (0b1001#4 ++ 0b1010#4 ++ 0b1011#4 ++ 0b0000#4) = .ok (.sneReg 10 11) ∧
      decode (0b1011#4 ++ 0x300#12) = .ok (.jpV0 0x300) := by decide

theorem test_decode_immediates :
    decode (0b0110#4 ++ 0b1010#4 ++ 0b01111111#8) = .ok (.ldImm 10 0x7F) ∧
      decode (0b0111#4 ++ 0b0010#4 ++ 0b00000101#8) = .ok (.addImm 2 5) := by decide

theorem test_decode_alu :
    decode (0b1000#4 ++ 0b1010#4 ++ 0b1011#4 ++ 0b0000#4) = .ok (.ldReg 10 11) ∧
      decode (0b1000#4 ++ 0b1010#4 ++ 0b1011#4 ++ 0b0001#4) = .ok (.orReg 10 11) ∧
      decode (0b1000#4 ++ 0b1010#4 ++ 0b1011#4 ++ 0b0010#4) = .ok (.andReg 10 11) ∧
      decode (0b1000#4 ++ 0b1010#4 ++ 0b1011#4 ++ 0b0011#4) = .ok (.xorReg 10 11) ∧
      decode (0b1000#4 ++ 0b1010#4 ++ 0b1011#4 ++ 0b0100#4) = .ok (.addReg 10 11) ∧
      decode (0b1000#4 ++ 0b1010#4 ++ 0b1011#4 ++ 0b0101#4) = .ok (.subReg 10 11) ∧
      decode (0b1000#4 ++ 0b1010#4 ++ 0b1011#4 ++ 0b0110#4) = .ok (.shr 10 11) ∧
      decode (0b1000#4 ++ 0b1010#4 ++ 0b1011#4 ++ 0b0111#4) = .ok (.subn 10 11) ∧
      decode (0b1000#4 ++ 0b1010#4 ++ 0b1011#4 ++ 0b1110#4) = .ok (.shl 10 11) := by decide

theorem test_decode_index_random_display :
    decode (0b1010#4 ++ 0x2F0#12) = .ok (.ldI 0x2F0) ∧ decode (0b1111#4 ++ 0b0001#4 ++ 0b00011110#8) = .ok (.addI 1) ∧
      decode (0b1100#4 ++ 0b0011#4 ++ 0b00001111#8) = .ok (.rnd 3 0x0F) ∧
      decode (0b1101#4 ++ 0b0001#4 ++ 0b0010#4 ++ 0b0101#4) = .ok (.drw 1 2 5) ∧
      decode (0b0000000011100000#16) = .ok .cls := by decide

theorem test_decode_keypad_timers :
    decode (0b1110#4 ++ 0b0011#4 ++ 0b10011110#8) = .ok (.skp 3) ∧ decode (0b1110#4 ++ 0b0011#4 ++ 0b10100001#8) = .ok (.sknp 3) ∧
      decode (0b1111#4 ++ 0b0011#4 ++ 0b00001010#8) = .ok (.ldKey 3) ∧
      decode (0b1111#4 ++ 0b0001#4 ++ 0b00000111#8) = .ok (.ldFromDt 1) ∧
      decode (0b1111#4 ++ 0b0000#4 ++ 0b00010101#8) = .ok (.ldDt 0) ∧
      decode (0b1111#4 ++ 0b0000#4 ++ 0b00011000#8) = .ok (.ldSt 0) := by decide

theorem test_decode_memory_transfer :
    decode (0b1111#4 ++ 0b0000#4 ++ 0b00101001#8) = .ok (.ldF 0) ∧ decode (0b1111#4 ++ 0b0011#4 ++ 0b00110011#8) = .ok (.ldB 3) ∧
      decode (0b1111#4 ++ 0b0010#4 ++ 0b01010101#8) = .ok (.ldStore 2) ∧
      decode (0b1111#4 ++ 0b1111#4 ++ 0b01100101#8) = .ok (.ldLoad 15) := by decide

/-- spec/95_test_vectors.md 2.1, the unknown words. -/
theorem test_decode_unknown :
    decode 0x0000 = .error .nnn ∧ decode 0x00E1 = .error .nnn ∧ decode 0x01E0 = .error .nnn ∧ decode 0x0ABC = .error .nnn ∧
      decode 0x00FF = .error .nnn ∧ decode 0x5121 = .error .n ∧ decode 0x9ABF = .error .n ∧ decode 0x8AB8 = .error .n ∧
      decode 0x8ABF = .error .n ∧ decode 0x8AB9 = .error .n ∧ decode 0xE09F = .error .nn ∧ decode 0xE3A0 = .error .nn ∧
      decode 0xF000 = .error .nn ∧ decode 0xF375 = .error .nn ∧ decode 0xFFFF = .error .nn ∧ decode 0xF11F = .error .nn := by decide

theorem test_decodeTableWord :
    decodeTableWord 16 0xD125 = some (.drw 1 2 5) ∧ decodeTableWord 16 0xFFFF = none ∧ decodeTableWord 16 0x00EE = some .ret := by decide

theorem test_decodeBytes :
    decodeBytes [0xA2, 0xF0, 0x12] = .ok (.ldI 0x2F0, [0x12]) ∧ decodeBytes [0xA2] = .error .truncated ∧
      decodeBytes [0xFF, 0xFF] = .error (.unknown 0xFFFF .nn) := by decide

/-! ## Fetch and host operations: spec/95_test_vectors.md 2.2 -/

theorem test_fetch_last_word :
    ({ atI 0xFFE [0x12, 0x00] [] with pc := 0xFFE } : State).fetch.1 = some 0x1200 ∧
      ({ atI 0xFFE [0x12, 0x00] [] with pc := 0xFFE } : State).fetch.2.pc = 0x1000 := by decide

theorem test_fetch_odd_pc :
    ({ atI 0x201 [0xAB, 0xCD] [] with pc := 0x201 } : State).fetch.1 = some 0xABCD ∧
      ({ atI 0x201 [0xAB, 0xCD] [] with pc := 0x201 } : State).fetch.2.pc = 0x203 := by decide

theorem test_fetch_out_of_bounds :
    ({ regs [] with pc := 0xFFF } : State).fetch = (none, { regs [] with pc := 0xFFF, err := some (.outOfBounds 0xFFF) }) ∧
      ({ regs [] with pc := 0x1000 } : State).fetch.2.err = some (.outOfBounds 0x1000) := by decide

theorem test_tick :
    ({ regs [] with dt := 255, st := 2 } : State).tickTimers = { regs [] with dt := 254, st := 1 } ∧
      ({ haltedState with dt := 3 } : State).tickTimers = { haltedState with dt := 2 } ∧
      ({ regs [] with dt := 1, st := 1 } : State).tickTimers.soundActive = false ∧ (regs []).tickTimers = regs [] := by decide

theorem test_initFont :
    State.reset.initFont.memRead 0x050 = 0xF0 ∧ State.reset.initFont.memRead 0x082 = 0xF0 ∧
      State.reset.initFont.memRead 0x083 = 0x90 ∧ State.reset.initFont.memRead 0x09F = 0x80 ∧
      State.reset.initFont.memRead 0x0A0 = 0 ∧ State.reset.initFont.memRead 0x04F = 0 := by decide

theorem test_loadProgram :
    ((({ regs [(3, 7)] with stack := [0x300], pc := 0 } : State).loadProgram [0x1A, 0xBC]).toOption.map fun t =>
      (t.memRead 0x200, t.memRead 0x201, t.pc, t.reg 3, t.stack)) = some (0x1A, 0xBC, 0x200, 7, [0x300]) := by decide

/-- A halted core keeps to its error while the tick goes on, and reset ends the halt (R93). -/
theorem test_halted :
    step haltedState = .fault (.halted .stackUnderflow) ∧
      step { haltedState with agenda := [.core] } = .next haltedState ∧
      step { haltedState with dt := 3, agenda := [.tick] } = .next { haltedState with dt := 2 } ∧
      step { haltedState with agenda := [.reset] } = .next State.reset := ⟨rfl, rfl, rfl, rfl⟩

/-- `fetch` and `decode_execute` called on their own: example E10 and vector PC = 0xFFE of section 2.2. -/
theorem test_core_operations_alone :
    step { atI 0xFFE [0x12, 0x00] [] with pc := 0xFFE, agenda := [.fetch] } = .next { atI 0xFFE [0x12, 0x00] [] with pc := 0x1000 } ∧
      step { regs [] with agenda := [.decodeExecute 0xFFFF] } = .next { regs [] with err := some (.unknownOpcode 0xFFFF .nn) } ∧
      step { haltedState with agenda := [.decodeExecute 0x00E0] } = .next haltedState := ⟨rfl, rfl, rfl⟩

/-- 0x0000 at PC: the fetch's advance stands and the word and field are reported (spec/95_test_vectors.md P5). -/
theorem test_step_unknown_word :
    step (regs []) = .next { regs [] with pc := 0x202, err := some (.unknownOpcode 0x0000 .nnn) } := rfl

/-! ## The instructions: spec/95_test_vectors.md 2.3 to 2.8 -/

theorem test_jp : after 0x1ABC (regs []) State.pc = some 0x0ABC ∧ after 0x1FFF (regs []) State.pc = some 0xFFF := by decide

theorem test_call :
    after 0x2300 (regs []) (fun t => (t.pc, t.stack)) = some (0x300, [0x202]) ∧
      after 0x2300 { regs [] with stack := List.replicate 15 0x300 } (fun t => (t.pc, t.stack.length)) = some (0x300, 16) := by
  decide

theorem test_call_overflow :
    after 0x2300 { regs [] with stack := List.replicate 16 0x300 } (fun t => (t.pc, t.stack, t.err)) =
      some (0x202, List.replicate 16 0x300, some .stackOverflow) := by decide

theorem test_ret :
    after 0x00EE { regs [] with stack := [0x304, 0x202] } (fun t => (t.pc, t.stack)) = some (0x304, [0x202]) ∧
      after 0x00EE (regs []) (fun t => (t.pc, t.err)) = some (0x202, some .stackUnderflow) := by decide

theorem test_seImm :
    after 0x332A (regs [(3, 0x2A)]) State.pc = some 0x204 ∧ after 0x332A (regs [(3, 0x2B)]) State.pc = some 0x202 ∧
      after 0x3000 { regs [] with pc := 0xFFE } State.pc = some 0x1002 := by decide

theorem test_sneImm :
    after 0x432A (regs [(3, 0x2A)]) State.pc = some 0x202 ∧ after 0x432A (regs []) State.pc = some 0x204 := by decide

theorem test_seReg :
    after 0x5120 (regs [(1, 7), (2, 7)]) State.pc = some 0x204 ∧ after 0x5120 (regs [(1, 7), (2, 8)]) State.pc = some 0x202 ∧
      after 0x5110 (regs [(1, 9)]) State.pc = some 0x204 := by decide

theorem test_sneReg :
    after 0x9120 (regs [(1, 7), (2, 8)]) State.pc = some 0x204 ∧ after 0x9110 (regs [(1, 9)]) State.pc = some 0x202 := by decide

theorem test_jpV0 :
    after 0xB300 (regs [(0, 2)]) State.pc = some 0x302 ∧ after 0xBFFF (regs [(0, 0xFF)]) State.pc = some 0x10FE := by decide

theorem test_jpV0_quirk : after 0xB300 { regs [(0, 2), (3, 0x10)] with cfg := otherQuirks } State.pc = some 0x310 := by decide

theorem test_ldImm : after 0x6A7F (regs []) (State.reg · 10) = some 0x7F ∧ after 0x6F55 (regs []) State.vf = some 0x55 := by decide

theorem test_addImm :
    after 0x7205 (regs [(2, 0xFE), (15, 1)]) (fun t => (t.reg 2, t.vf)) = some (0x03, 1) ∧
      after 0x7F01 (regs [(15, 0xFF)]) State.vf = some 0 := by decide

theorem test_ldReg : after 0x8450 (regs [(5, 0x33)]) (State.reg · 4) = some 0x33 := by decide

theorem test_orReg : after 0x8121 (regs [(1, 0xF0), (2, 0x0F), (15, 1)]) (fun t => (t.reg 1, t.vf)) = some (0xFF, 1) := by decide

theorem test_andReg : after 0x8122 (regs [(1, 0xF3), (2, 0x3F), (15, 1)]) (fun t => (t.reg 1, t.vf)) = some (0x33, 1) := by decide

theorem test_xorReg : after 0x8123 (regs [(1, 0xFF), (2, 0x0F), (15, 1)]) (fun t => (t.reg 1, t.vf)) = some (0xF0, 1) := by decide

theorem test_addReg :
    after 0x8014 (regs [(0, 0xC8), (1, 0x64)]) (fun t => (t.reg 0, t.vf)) = some (0x2C, 1) ∧
      after 0x8014 (regs [(0, 0x80), (1, 0x7F)]) (fun t => (t.reg 0, t.vf)) = some (0xFF, 0) := by decide

theorem test_addReg_flag_register :
    after 0x8F14 (regs [(15, 0xFF), (1, 1)]) State.vf = some 1 ∧ after 0x8F14 (regs [(15, 1), (1, 1)]) State.vf = some 0 ∧
      after 0x80F4 (regs [(0, 5), (15, 1)]) (fun t => (t.reg 0, t.vf)) = some (6, 0) := by decide

theorem test_subReg :
    after 0x8015 (regs [(0, 5), (1, 7)]) (fun t => (t.reg 0, t.vf)) = some (0xFE, 0) ∧
      after 0x8015 (regs [(0, 0xFF), (1, 0xFF)]) (fun t => (t.reg 0, t.vf)) = some (0, 1) ∧
      after 0x8F15 (regs [(15, 5), (1, 5)]) State.vf = some 1 := by decide

theorem test_subn :
    after 0x8017 (regs [(0, 5), (1, 7)]) (fun t => (t.reg 0, t.vf)) = some (2, 1) ∧
      after 0x8017 (regs [(0, 1), (1, 0)]) (fun t => (t.reg 0, t.vf)) = some (0xFF, 0) := by decide

theorem test_shr :
    after 0x8216 (regs [(1, 0x81), (2, 0x55)]) (fun t => (t.reg 2, t.vf, t.reg 1)) = some (0x40, 1, 0x81) ∧
      after 0x8EF6 (regs [(15, 3)]) (fun t => (t.reg 14, t.vf)) = some (1, 1) := by decide

theorem test_shr_quirk :
    after 0x8216 { regs [(1, 0x81), (2, 0x55)] with cfg := otherQuirks } (fun t => (t.reg 2, t.vf)) = some (0x2A, 1) := by decide

theorem test_shl :
    after 0x821E (regs [(1, 0x81), (2, 0x55)]) (fun t => (t.reg 2, t.vf, t.reg 1)) = some (0x02, 1, 0x81) ∧
      after 0x821E (regs [(1, 0x7F)]) (fun t => (t.reg 2, t.vf)) = some (0xFE, 0) := by decide

theorem test_shl_quirk :
    after 0x821E { regs [(1, 0x81), (2, 0x55)] with cfg := otherQuirks } (fun t => (t.reg 2, t.vf)) = some (0xAA, 0) := by decide

theorem test_ldI : after 0xAFFF (regs []) State.index = some 0x0FFF := by decide

theorem test_addI :
    after 0xF01E (atI 0xF80 [] [(0, 0x7F)]) (fun t => (t.index, t.vf)) = some (0xFFF, 0) ∧
      after 0xF01E (atI 0xF80 [] [(0, 0x80)]) (fun t => (t.index, t.vf)) = some (0x000, 1) ∧
      after 0xFF1E (atI 0xFFE [] [(15, 1)]) (fun t => (t.index, t.vf)) = some (0xFFF, 0) := by decide

theorem test_addI_quirk :
    after 0xF01E { atI 0xFFF [] [(0, 2), (15, 7)] with cfg := otherQuirks } (fun t => (t.index, t.vf)) = some (0x1001, 7) := by
  decide

/-- `any draw, 0xC300: V3 = 0x00`, whatever the free value is. -/
theorem test_rnd_zero_mask : after 0xC300 (regs [(3, 5)]) (State.reg · 3) = some 0 := by
  show some (((Config.rand16 0).setWidth 8 : Byte) &&& 0#8) = some 0#8
  rw [BitVec.and_zero]

theorem test_cls :
    after 0x00E0 { regs [(15, 9)] with fb := Vector.replicate 32 (Vector.replicate 64 true) }
      (fun t => (rowBits 0 t, rowBits 31 t, t.dirty, t.vf)) = some (0, 0, true, 9) := by decide

/-- (0..7, 0) all set from (0..3, 0) set and 0x0F drawn: no collision; drawn over (0..7, 0) set: collision. -/
theorem test_drw_collision :
    after 0xD011 { atI 0x300 [0x0F] [] with fb := ((regs []).drawSprite 0 0 0).fb.set 0 ((Vector.replicate 64 false).set 3 true) }
        (fun t => (rowBits 0 t, t.vf, t.dirty)) = some (0x1F * 2 ^ 56, 0, true) ∧
      after 0xD011 { atI 0x300 [0x0F] [] with fb := Vector.replicate 32 (Vector.replicate 64 true) }
        (fun t => (rowBits 0 t, t.vf, t.dirty)) = some (2 ^ 64 - 1 - 0x0F * 2 ^ 56, 1, true) := by decide +kernel

/-- The start wraps (71 mod 64, 33 mod 32), the right and the bottom edge clip, and a row clipped away is not read. -/
theorem test_drw_edges :
    after 0xD011 (atI 0x300 [0x80] [(0, 0x47), (1, 0x21)]) (fun t => (rowBits 1 t, t.vf)) = some (2 ^ 56, 0) ∧
      after 0xD011 (atI 0x300 [0xFF] [(0, 60)]) (fun t => (rowBits 0 t, t.vf)) = some (0xF, 0) ∧
      after 0xD013 (atI 0xFFE [0x80, 0x80] [(1, 30)]) (fun t => (rowBits 30 t, rowBits 31 t, rowBits 0 t, t.err)) =
        some (2 ^ 63, 2 ^ 63, 0, none) ∧
      after 0xD013 (atI 0xFFE [] []) (fun t => (t.err, t.dirty)) = some (some (.dataOutOfBounds 0x1000), false) := by decide +kernel

theorem test_skp :
    after 0xE49E { regs [(4, 7)] with keys := 0x0080 } State.pc = some 0x204 ∧
      after 0xE49E { regs [(4, 7)] with keys := 0xFF7F } State.pc = some 0x202 ∧
      after 0xE49E (regs [(4, 0x10)]) (fun t => (t.pc, t.err)) = some (0x202, some (.keyOutOfRange 0x10)) := by decide

theorem test_sknp :
    after 0xE4A1 { regs [(4, 7)] with keys := 0x0080 } State.pc = some 0x202 ∧ after 0xE4A1 (regs [(4, 7)]) State.pc = some 0x204 ∧
      after 0xE4A1 (regs [(4, 0xFF)]) State.err = some (some (.keyOutOfRange 0xFF)) := by decide

theorem test_ldKey_waits : after 0xF20A (regs [(2, 9)]) (fun t => (t.pc, t.reg 2)) = some (0x200, 9) := by decide

/-- KEYS = 0x0080: the only key that is down is reported, wherever the search begins; KEYS = 0x0082: either of the two. -/
theorem test_ldKey_choice :
    (∀ k, keyFrom 0x0080 k = 7) ∧ (∀ k, keyFrom 0x0082 k = 1 ∨ keyFrom 0x0082 k = 7) ∧ keyFrom 0x0082 0 = 1 ∧ keyFrom 0x0082 5 = 7 := by
  decide

theorem test_ldFromDt : after 0xF107 { regs [] with dt := 3 } (fun t => (t.reg 1, t.dt)) = some (3, 3) := by decide

theorem test_ldDt : after 0xF015 (regs [(0, 5)]) State.dt = some 5 := by decide

theorem test_ldSt :
    after 0xF018 (regs [(0, 2)]) (fun t => (t.st, t.soundActive)) = some (2, true) ∧
      after 0xF018 { regs [] with st := 9 } State.soundActive = some false := by decide

theorem test_ldF :
    after 0xF029 (regs [(0, 0x0A)]) State.index = some 0x082 ∧ after 0xF029 (regs [(0, 0x0F)]) State.index = some 0x09B ∧
      after 0xF029 (regs [(0, 0x10)]) (fun t => (t.index, t.err)) = some (0, some (.digitOutOfRange 0x10)) := by decide

theorem test_ldB :
    after 0xF333 (atI 0x300 [] [(3, 157)]) (fun t => (t.memRead 0x300, t.memRead 0x301, t.memRead 0x302, t.index)) =
        some (1, 5, 7, 0x300) ∧
      after 0xF333 (atI 0xFFD [] [(3, 255)]) (fun t => (t.memRead 0xFFD, t.memRead 0xFFE, t.memRead 0xFFF)) = some (2, 5, 5) := by
  decide

theorem test_ldB_out_of_bounds :
    after 0xF333 (atI 0xFFE [] [(3, 7)]) (fun t => (t.err, t.memRead 0xFFE)) = some (some (.dataOutOfBounds 0x1000), 0) := by
  decide

theorem test_ldStore :
    after 0xF255 (atI 0x400 [] [(0, 0x11), (1, 0x22), (2, 0x33), (3, 0x44)])
      (fun t => (t.memRead 0x400, t.memRead 0x401, t.memRead 0x402, t.memRead 0x403, t.index)) = some (0x11, 0x22, 0x33, 0, 0x400) := by
  decide

theorem test_ldStore_bounds :
    after 0xFF55 (atI 0xFF0 [] [(15, 0x0F)]) (fun t => (t.memRead 0xFFF, t.err)) = some (0x0F, none) ∧
      after 0xFF55 (atI 0xFF1 [] [(0, 1)]) (fun t => (t.memRead 0xFF1, t.err)) = some (0, some (.dataOutOfBounds 0x1000)) := by
  decide

theorem test_ldLoad :
    after 0xF265 (atI 0x300 [1, 5, 7] [(3, 0x99)]) (fun t => (t.reg 0, t.reg 1, t.reg 2, t.reg 3, t.index)) =
      some (1, 5, 7, 0x99, 0x300) := by decide

theorem test_ldLoad_bounds :
    after 0xFF65 (atI 0xFF0 [0xAA] []) (fun t => (t.reg 0, t.vf, t.err)) = some (0xAA, 0, none) ∧
      after 0xFF65 (atI 0xFF1 [0xAA] []) (fun t => (t.reg 0, t.err)) = some (0, some (.dataOutOfBounds 0x1000)) := by decide

/-! ## Witnesses: states and operands that meet the hypotheses of the statements -/

/-- The state after an instruction, for the witnesses; `exec` answers a next state on every one of them. -/
def execTo (i : Instr) (s : State) : State :=
  match exec i s with
  | .next t => t
  | _ => s

theorem witness_DecodeOfEncode : (Instr.drw 15 15 15).wellFormed = true ∧ (Instr.drw 0 0 0).wellFormed = true := by decide

theorem witness_EncodeOfDecode : decode 0xDFFF = .ok (.drw 15 15 15) ∧ decode 0x00E0 = .ok .cls := by decide

theorem witness_DecodeAgreesWithTheTableRows : (tableRow (.drw 0 0 0)).accepts 0xDFFF = true ∧ (tableRow .ret).accepts 0x00EE = true := by
  decide

/-- One word for each disjunct of the unknown words. -/
theorem witness_UnknownWordsNameTheirField :
    (fieldOp 0x00E1 = 0 ∧ decode 0x00E1 = .error .nnn) ∧ (fieldOp 0x5121 = 5 ∧ decode 0x5121 = .error .n) ∧
      (fieldOp 0x9ABF = 9 ∧ decode 0x9ABF = .error .n) ∧
      (fieldOp 0x800F = 8 ∧ decode 0x800F = .error .n) ∧ (fieldOp 0xE09F = 0xE ∧ decode 0xE09F = .error .nn) ∧
      (fieldOp 0xF000 = 0xF ∧ decode 0xF000 = .error .nn) := by decide

/-- For FetchReadsBigEndian and FetchFailsFromTheLastByte: the last fetchable address and the first that is not. -/
theorem witness_Fetch_bounds :
    ({ regs [] with pc := 0xFFE } : State).err = none ∧ ({ regs [] with pc := 0xFFE } : State).pc.toNat ≤ 0xFFE ∧
      0xFFF ≤ ({ regs [] with pc := 0xFFF } : State).pc.toNat ∧ 0xFFF ≤ ({ regs [] with pc := 0xFFFF } : State).pc.toNat := by decide

theorem witness_StepRunsDecodedInstruction :
    ∃ s : State, s.err = none ∧ s.pc.toNat ≤ 0xFFE ∧
      decode (wordOfBytes (s.memRead s.pc.toNat) (s.memRead (s.pc.toNat + 1))) = .ok (.jp 0xFFE) ∧ s.agenda = [] :=
  ⟨{ atI 0xFFE [0x1F, 0xFE] [] with pc := 0xFFE }, by decide⟩

theorem witness_StepRunsDecodedInstruction_agenda :
    ∃ s : State, s.err = none ∧ s.pc.toNat ≤ 0xFFE ∧
      decode (wordOfBytes (s.memRead s.pc.toNat) (s.memRead (s.pc.toNat + 1))) = .ok (.jp 0xFFE) ∧ s.agenda = .core :: [.tick] :=
  ⟨{ atI 0xFFE [0x1F, 0xFE] [] with pc := 0xFFE, agenda := [.core, .tick] }, by decide⟩

theorem witness_StepRaisesTheErrorsOfFetchAndDecode_fetch :
    ∃ s : State, s.agenda = [] ∧ s.err = none ∧ 0xFFF ≤ s.pc.toNat := ⟨{ regs [] with pc := 0xFFF }, by decide⟩

theorem witness_StepRaisesTheErrorsOfFetchAndDecode_decode :
    ∃ s : State, s.agenda = [] ∧ s.err = none ∧ s.pc.toNat ≤ 0xFFE ∧
      decode (wordOfBytes (s.memRead s.pc.toNat) (s.memRead (s.pc.toNat + 1))) = .error .nn :=
  ⟨{ atI 0xFFE [0xFF, 0xFF] [] with pc := 0xFFE }, by decide⟩

theorem witness_HaltedCoreHasNoStep :
    haltedState.err = some .stackUnderflow ∧ haltedState.agenda = [] ∧
      ({ haltedState with agenda := [.core] } : State).agenda = .core :: [] ∧
      ({ haltedState with agenda := [.fetch] } : State).agenda = .fetch :: [] ∧
      ({ haltedState with agenda := [.decodeExecute 0x00E0] } : State).agenda = .decodeExecute 0x00E0 :: [] := by decide

theorem witness_DecodeExecuteOnAnyWord :
    (regs []).err = none ∧ decode 0x6A7F = .ok (.ldImm 10 0x7F) ∧ decode 0x0000 = .error .nnn := by decide

/-- A halted core whose tick goes on, and one that is reset. -/
theorem witness_OnlyResetEndsAHalt :
    ∃ t u, step { haltedState with agenda := [.tick] } = .next t ∧ step { haltedState with agenda := [.reset] } = .next u ∧
      haltedState.err = some .stackUnderflow := ⟨_, _, rfl, rfl, rfl⟩

/-- Each error at the first operand that raises it. -/
theorem witness_ErrorsRaisedExactlyWhenListed_raised :
    errorOf .ret (regs []) = some .stackUnderflow ∧
      errorOf (.call 0) { regs [] with stack := List.replicate 16 2 } = some .stackOverflow ∧
      errorOf (.ldB 0) (atI 0xFFE [] []) = some (.dataOutOfBounds 0x1000) ∧
      errorOf (.ldStore 1) (atI 0xFFF [] []) = some (.dataOutOfBounds 0x1000) ∧
      errorOf (.ldLoad 15) (atI 0xFF1 [] []) = some (.dataOutOfBounds 0x1000) ∧
      errorOf (.drw 0 1 3) (atI 0xFFE [] []) = some (.dataOutOfBounds 0x1000) ∧
      errorOf (.skp 0) (regs [(0, 16)]) = some (.keyOutOfRange 16) ∧ errorOf (.sknp 0) (regs [(0, 16)]) = some (.keyOutOfRange 16) ∧
      errorOf (.ldF 0) (regs [(0, 16)]) = some (.digitOutOfRange 16) := by decide

/-- Each of those instructions at the last operand that raises nothing. -/
theorem witness_ErrorsRaisedExactlyWhenListed_none :
    errorOf .ret { regs [] with stack := [2] } = none ∧ errorOf (.call 0) { regs [] with stack := List.replicate 15 2 } = none ∧
      errorOf (.ldB 0) (atI 0xFFD [] []) = none ∧ errorOf (.ldStore 1) (atI 0xFFE [] []) = none ∧
      errorOf (.ldLoad 15) (atI 0xFF0 [] []) = none ∧ errorOf (.drw 0 1 3) (atI 0xFFD [] []) = none ∧
      errorOf (.drw 0 1 0) (atI 0xFFFF [] []) = none ∧ errorOf (.skp 0) (regs [(0, 15)]) = none ∧
      errorOf (.sknp 0) (regs [(0, 15)]) = none ∧ errorOf (.ldF 0) (regs [(0, 15)]) = none := by decide

theorem witness_StackUnderflowExactlyOnEmptyReturn : (regs []).err = none ∧ (regs []).stack = [] := by decide

theorem witness_EachPartIsChangedOnlyByItsInstructions_display :
    ∃ t, exec .cls (regs []) = .next t ∧ t.dirty ≠ (regs []).dirty := ⟨_, rfl, by decide⟩

theorem witness_EachPartIsChangedOnlyByItsInstructions_memory :
    ∃ t, exec (.ldStore 0) (atI 0xFFF [] [(0, 1)]) = .next t ∧ t.mem ≠ (atI 0xFFF [] [(0, 1)]).mem := ⟨_, rfl, by decide⟩

theorem witness_EachPartIsChangedOnlyByItsInstructions_stack :
    ∃ t u, exec (.call 0x300) (regs []) = .next t ∧ t.stack ≠ (regs []).stack ∧
      exec .ret { regs [] with stack := [0x202] } = .next u ∧ u.stack ≠ [0x202] := ⟨_, _, rfl, by decide, rfl, by decide⟩

theorem witness_EachPartIsChangedOnlyByItsInstructions_index :
    ∃ t, exec (.ldI 0xFFF) (regs []) = .next t ∧ t.index ≠ (regs []).index := ⟨_, rfl, by decide⟩

/-- V0 as a destination, and VF as the flag of an instruction that does not name it. -/
theorem witness_RegistersChangedOnlyByDestinations :
    ∃ t, exec (.addReg 0 1) (regs [(0, 0x80), (1, 0x80)]) = .next t ∧
      t.reg 0 ≠ (regs [(0, 0x80), (1, 0x80)]).reg 0 ∧ t.reg 15 ≠ (regs [(0, 0x80), (1, 0x80)]).reg 15 := ⟨_, rfl, by decide, by decide⟩

theorem witness_FlagIsAlwaysZeroOrOne :
    (Instr.addReg 15 15).definesFlag defaultConfig ∧ (Instr.addI 0).definesFlag defaultConfig ∧ (Instr.drw 0 0 1).definesFlag defaultConfig ∧
      errorOf (.addReg 15 15) (regs []) = none ∧ errorOf (.addI 0) (regs []) = none ∧ errorOf (.drw 0 0 1) (atI 0xFFF [] []) = none :=
  ⟨trivial, rfl, trivial, rfl, rfl, by decide⟩

/-- An instruction of each way to change PC. -/
theorem witness_PcChangedOnlyAsListed :
    (execTo (.jp 0xFFF) (regs [])).pc ≠ 0x200 ∧ (execTo (.call 0) (regs [])).pc ≠ 0x200 ∧
      (execTo .ret { regs [] with stack := [0x1000] }).pc ≠ 0x200 ∧ (execTo (.seImm 0 0) (regs [])).pc ≠ 0x200 ∧
      (execTo (.sneReg 0 1) (regs [(0, 1)])).pc ≠ 0x200 ∧ (execTo (.sknp 0) (regs [])).pc ≠ 0x200 ∧
      (execTo (.jpV0 0xFFF) (regs [(0, 0xFF)])).pc ≠ 0x200 ∧ (execTo (.ldKey 0) (regs [])).pc ≠ 0x200 := by decide

theorem witness_ExecKeepsInputsAndParameters :
    ∃ t, exec (.rnd 0 0xFF) (regs []) = .next t ∧ t.draws ≠ (regs []).draws := ⟨_, rfl, by decide⟩

theorem witness_DelayTimerIsReadAndWrittenAsStated :
    (∃ t, exec (.ldDt 0) (regs [(0, 5)]) = .next t ∧ t.dt ≠ (regs [(0, 5)]).dt) ∧
      (∀ x, Instr.cls ≠ .ldDt x) ∧ ∀ x, Instr.cls ≠ .ldFromDt x := ⟨⟨_, rfl, by decide⟩, nofun, nofun⟩

theorem witness_SoundTimerIsReadAndWrittenAsStated :
    (∃ t, exec (.ldSt 0) (regs [(0, 5)]) = .next t ∧ t.st ≠ (regs [(0, 5)]).st) ∧ ∀ x, Instr.cls ≠ .ldSt x :=
  ⟨⟨_, rfl, by decide⟩, nofun⟩

theorem witness_DirtyFlagIsSetAndClearedAsStated_draw :
    errorOf (.drw 0 1 1) (atI 0xFFF [] []) = none ∧ errorOf (.drw 0 1 2) (atI 0xFFF [] []) ≠ none := by decide

theorem witness_DirtyFlagIsSetAndClearedAsStated_cleared :
    ∃ t, step { regs [] with dirty := true, agenda := [.clearDirty] } = .next t ∧ t.dirty = false := ⟨_, rfl, rfl⟩

theorem witness_DirtyFlagIsSetAndClearedAsStated_reset :
    ∃ t, step { regs [] with dirty := true, agenda := [.reset] } = .next t ∧ t.dirty = false := ⟨_, rfl, rfl⟩

theorem witness_DirtyFlagIsSetAndClearedAsStated_others : Instr.ret ≠ .cls ∧ ∀ x y n, Instr.ret ≠ .drw x y n :=
  ⟨nofun, nofun⟩

theorem witness_KeysReadOnlyByTheirInstructions :
    (∀ x, Instr.drw 0 0 1 ≠ .skp x) ∧ (∀ x, Instr.drw 0 0 1 ≠ .sknp x) ∧ ∀ x, Instr.drw 0 0 1 ≠ .ldKey x := ⟨nofun, nofun, nofun⟩

theorem witness_CallPushesReturnAddress :
    ({ regs [] with stack := List.replicate 15 2 } : State).stack.length < defaultConfig.stackDepth ∧
      defaultConfig.stackDepth ≤ ({ regs [] with stack := List.replicate 16 2 } : State).stack.length := by decide

theorem witness_ReturnPopsNewestEntry : ({ regs [] with stack := [0x1000] } : State).stack = 0x1000 :: [] ∧ (regs []).stack = [] := by decide

theorem witness_CallThenReturnComesBack :
    ({ regs [] with stack := List.replicate 15 2 } : State).stack.length < defaultConfig.stackDepth ∧
      ∃ t, exec (.call 0x300) (regs []) = .next t ∧ ({ State.reset with stack := [0x200] } : State).stack = t.stack :=
  ⟨by decide, _, rfl, rfl⟩

theorem witness_SkipsAdvancePcOnTheirCondition :
    (regs [(0, 0xFF)]).reg 0 = 0xFF ∧ (regs [(0, 0xFF)]).reg 0 ≠ 0xFE ∧ (regs [(0, 0xFF)]).reg 0 ≠ (regs [(0, 0xFF)]).reg 1 ∧
      (regs []).reg 0 = (regs []).reg 1 := by decide

theorem witness_JumpWithOffsetAddsRegister :
    (regs [(0, 0xFF)]).cfg.qJumpVx = false ∧ ({ regs [(15, 0xFF)] with cfg := otherQuirks } : State).cfg.qJumpVx = true ∧
      (15 : Fin 16).val = (0xFFF#12).toNat / 0x100 ∧ (0 : Fin 16).val = (0x0FF#12).toNat / 0x100 := by decide

/-- For ImmediatesWriteOnlyTheirRegister and CopyAndLogicWriteOnlyTheirRegister: VF as the register that is not the destination. -/
theorem witness_OnlyTheirRegister : (15 : Fin 16) ≠ 14 := by decide

/-- A destination other than VF and VF itself, a third register, and sums on both sides of 255. -/
theorem witness_AddWritesSumAndCarry :
    (0 : Fin 16) ≠ 15 ∧ (1 : Fin 16) ≠ 0 ∧ 255 < ((regs [(0, 0xFF), (1, 1)]).reg 0).toNat + ((regs [(0, 0xFF), (1, 1)]).reg 1).toNat ∧
      ((regs [(0, 0xFE), (1, 1)]).reg 0).toNat + ((regs [(0, 0xFE), (1, 1)]).reg 1).toNat ≤ 255 := by decide

theorem witness_SubtractionsWriteDifferenceAndNoBorrow :
    ((regs [(0, 5), (1, 5)]).reg 1).toNat ≤ ((regs [(0, 5), (1, 5)]).reg 0).toNat ∧
      ((regs [(0, 4), (1, 5)]).reg 0).toNat < ((regs [(0, 4), (1, 5)]).reg 1).toNat := by decide

theorem witness_ShiftsWriteResultAndBitOut :
    (0xFF : Byte) = (if (regs [(1, 0xFF)]).cfg.qShiftVy then (regs [(1, 0xFF)]).reg 1 else (regs [(1, 0xFF)]).reg 0) ∧
      (0 : Byte) = (if ({ regs [(1, 0xFF)] with cfg := otherQuirks } : State).cfg.qShiftVy then (regs [(1, 0xFF)]).reg 1
        else (regs [(1, 0xFF)]).reg 0) := by decide

theorem witness_AddToIndexWrapsAndFlags :
    (regs []).cfg.qIndexOvf = true ∧ otherQuirks.qIndexOvf = false ∧
      0x0FFF < (atI 0xFFF [] [(0, 1)]).index.toNat + ((atI 0xFFF [] [(0, 1)]).reg 0).toNat ∧
      (atI 0xFFF [] []).index.toNat + ((atI 0xFFF [] []).reg 0).toNat ≤ 0x0FFF := by decide

theorem witness_RandomIsMasked : (0x7F : Byte).getLsbD 7 = false ∧ (1 : Fin 16) ≠ 0 := by decide

/-- No row, the last address, and a row clipped at the bottom so that the last byte read is at 0xFFF. -/
theorem witness_DrawInvertsPixelsUnderTheSprite_bounds :
    (atI 0xFFF [0x80] []).index.toNat + min 1 (32 - ((atI 0xFFF [0x80] []).reg 1).toNat % 32) ≤ 0x1000 ∧
      (atI 0xFFE [] [(1, 30)]).index.toNat + min 15 (32 - ((atI 0xFFE [] [(1, 30)]).reg 1).toNat % 32) ≤ 0x1000 := by decide

/-- A pixel in the last column under a set bit, one beside it that is not, and both collision cases. -/
theorem witness_DrawInvertsPixelsUnderTheSprite_pixels :
    spriteOver (atI 0xFFF [0x80] [(0, 63)]) 0 1 1 0 63 ∧ ¬ spriteOver (atI 0xFFF [0x80] [(0, 63)]) 0 1 1 0 62 ∧
      ({ atI 0xFFF [0x80] [(0, 63)] with fb := Vector.replicate 32 (Vector.replicate 64 true) } : State).pixel 0 63 = true ∧
      ∀ py px, (atI 0xFFF [0x80] [(0, 63)]).pixel py px = false :=
  ⟨by decide, by decide, by decide, fun py px => by simp [State.pixel, atI, regs, State.memWriteBytes, State.setMem, State.setReg, State.reset, State.construct]⟩

theorem witness_DrawingTwiceRestoresTheBuffer :
    ∃ t, errorOf (.drw 0 1 1) (atI 0xFFF [0x80] [(0, 63), (1, 31)]) = none ∧
      exec (.drw 0 1 1) (atI 0xFFF [0x80] [(0, 63), (1, 31)]) = .next t ∧ (t.reg 0).toNat % 64 = 63 ∧ (t.reg 1).toNat % 32 = 31 ∧
      ((atI 0xFFF [0x80] [(0, 63), (1, 31)]).reg 0).toNat % 64 = 63 ∧ ((atI 0xFFF [0x80] [(0, 63), (1, 31)]).reg 1).toNat % 32 = 31 :=
  ⟨execTo (.drw 0 1 1) (atI 0xFFF [0x80] [(0, 63), (1, 31)]), by decide, rfl, by decide, by decide, by decide, by decide⟩

theorem witness_KeySkipsTestOneKey :
    ((regs [(0, 15)]).reg 0).toNat ≤ 15 ∧ 15 < ((regs [(0, 16)]).reg 0).toNat ∧
      ({ regs [(0, 15)] with keys := 0x8000 } : State).keys.getLsbD ((regs [(0, 15)]).reg 0).toNat = true ∧
      (regs [(0, 15)]).keys.getLsbD ((regs [(0, 15)]).reg 0).toNat = false := by decide

theorem witness_KeyWaitStallsOrStoresAKey :
    (regs []).keys = 0#16 ∧ ({ regs [] with keys := 0x8000 } : State).keys ≠ 0#16 ∧ (1 : Fin 16) ≠ 0 := by decide

theorem witness_KeyWaitStepChangesNothing :
    ∃ s : State, s.agenda = [] ∧ s.err = none ∧ s.pc.toNat ≤ 0xFFE ∧ s.keys = 0#16 ∧
      decode (wordOfBytes (s.memRead s.pc.toNat) (s.memRead (s.pc.toNat + 1))) = .ok (.ldKey 15) :=
  ⟨{ atI 0xFFE [0xFF, 0x0A] [] with pc := 0xFFE }, by decide⟩

theorem witness_FontAddressOfADigit :
    ((regs [(0, 15)]).reg 0).toNat ≤ 15 ∧ (regs []).cfg.wellFormed = true ∧ 15 < ((regs [(0, 16)]).reg 0).toNat := by decide

theorem witness_BcdStoresThreeDigits :
    (atI 0xFFD [] [(3, 255)]).mem.wf = true ∧ (atI 0xFFD [] [(3, 255)]).index.toNat + 2 ≤ 0xFFF := by decide

/-- For BlockStoreWritesFirstRegisters, BlockLoadReadsFirstRegisters and LoadAfterStoreRestoresRegisters: sixteen registers up to the last byte of memory. -/
theorem witness_BlockTransfers :
    (atI 0xFF0 [] [(15, 1)]).mem.wf = true ∧ (atI 0xFF0 [] [(15, 1)]).index.toNat + (15 : Fin 16).val ≤ 0xFFF ∧
      (14 : Fin 16) ≤ 15 ∧ (14 : Fin 16) < 15 := by decide

theorem witness_StoredCodeIsFetched :
    ∃ s : State, s.mem.wf = true ∧ s.err = none ∧ 1 ≤ (1 : Fin 16).val ∧ s.index = s.pc ∧ s.index.toNat + (1 : Fin 16).val ≤ 0xFFF :=
  ⟨{ atI 0xFFE [] [] with pc := 0xFFE }, by decide⟩

/-- A state for each operation that can come first. -/
theorem witness_StepRunsTheNextOperation :
    ({ regs [] with agenda := [.tick, .core] } : State).agenda = .tick :: [.core] ∧
      ({ regs [] with agenda := [.keys 1] } : State).agenda = .keys 1 :: [] ∧
      ({ regs [] with agenda := [.clearDirty] } : State).agenda = .clearDirty :: [] ∧
      ({ regs [] with agenda := [.initFont] } : State).agenda = .initFont :: [] ∧
      ({ regs [] with agenda := [.loadProgram [0x12]] } : State).agenda = .loadProgram [0x12] :: [] ∧
      ({ regs [] with agenda := [.reset] } : State).agenda = .reset :: [] := ⟨rfl, rfl, rfl, rfl, rfl, rfl⟩

/-- A `fetch` followed by the `decode_execute` of the word it returns, at the last fetchable address. -/
theorem witness_StepRunsTheNextOperation_core :
    ∃ s t : State, s.agenda = .fetch :: .decodeExecute 0x1200 :: [] ∧ s.fetch = (some 0x1200, t) ∧
      ({ s with agenda := [.decodeExecute 0x1200] } : State).agenda = .decodeExecute 0x1200 :: [] ∧ s.err = none :=
  ⟨{ atI 0xFFE [0x12, 0x00] [] with pc := 0xFFE, agenda := [.fetch, .decodeExecute 0x1200] }, _, rfl, rfl, rfl, rfl⟩

theorem witness_StepRunsTheNextOperation_load :
    (∃ t, State.loadProgram [0x12] (regs []) = .ok t) ∧
      State.loadProgram (List.replicate 3585 0) (regs []) = .error .programTooLarge :=
  ⟨⟨_, rfl⟩, by unfold State.loadProgram; rw [if_pos (by rw [List.length_replicate]; decide)]⟩

theorem witness_InitializeWritesTheFontOnce : (regs []).mem.wf = true ∧ (regs []).cfg.wellFormed = true := by decide

theorem witness_LoadProgramWritesBytesAndPc :
    (regs []).mem.wf = true ∧ (List.replicate 3584 (1 : Byte)).length ≤ 3584 ∧ 3584 < (List.replicate 3585 (1 : Byte)).length ∧
      (0 : Nat) < (List.replicate 3584 (1 : Byte)).length :=
  ⟨by decide, by rw [List.length_replicate], by rw [List.length_replicate]; decide, by rw [List.length_replicate]; decide⟩

theorem witness_LoadedJumpIsTaken : (regs []).mem.wf = true ∧ (regs []).err = none ∧ (regs []).agenda = [] := by decide

theorem witness_ResetLeavesTheConstructedState :
    ({ haltedState with agenda := [.reset, .tick] } : State).agenda = .reset :: [.tick] ∧
      ∃ t, step { haltedState with agenda := [.reset, .tick] } = .next t := ⟨rfl, _, rfl⟩

theorem witness_BootReachesTheBootState : (List.replicate 3584 (1 : Byte)).length ≤ 3584 := by rw [List.length_replicate]

/-- A state at the edge of every part of both invariants, and a step from it. -/
theorem witness_EveryStepKeepsTheInvariants :
    ({ atI 0xFFF [0x80] [] with pc := 0x10FE, stack := List.replicate 16 0x1000, agenda := [.fetch] } : State).Inv ∧
      ({ atI 0xFFF [0x80] [] with pc := 0x10FE, stack := List.replicate 16 0x1000, agenda := [.fetch] } : State).StepInv ∧
      ∃ t, step { atI 0xFFF [0x80] [] with pc := 0x10FE, stack := List.replicate 16 0x1000, agenda := [.fetch] } = .next t :=
  ⟨by decide, by decide, _, rfl⟩

/-- A `decode_execute` called on its own is an operation whose result meets `Inv`; R26 (b) fails of it, as R26 says: CALL pushes the 0
that PC holds. -/
theorem test_direct_decodeExecute :
    ∃ t, step { regs [] with pc := 0, agenda := [.decodeExecute 0x2300] } = .next t ∧ t.stack = [0] ∧ t.pc = 0x300 ∧ t.Inv ∧
      ¬ t.StepInv := ⟨_, rfl, by decide, by decide, by decide, by decide⟩

theorem witness_EveryStepKeepsMemoryFormAndParameters :
    (atI 0xFFF [0x80] []).mem.wf = true ∧ ∃ t, step (atI 0xFFF [0x80] []) = .next t := ⟨by decide, _, rfl⟩

end Sys2Proof.Tests
end

/-! # What an instruction does, said once for all instructions

`exec` either raises the error that `errorOf` names, and then ERR alone changes (spec/60_exceptions.md R188), or leaves the state
`State.completed`. The frame statements of spec/10_state.md are facts about `State.completed`, field by field. -/

section
namespace Sys2Proof.Machine

/-- The state an instruction leaves when it raises no error, one arm per rule. -/
def State.completed (i : Instr) (s : State) : State :=
  match i with
  | .jp nnn => s.setPc (addr16 nnn)
  | .call nnn => (s.setStack (s.pc :: s.stack)).setPc (addr16 nnn)
  | .ret => (s.setStack s.stack.tail).setPc (s.stack.headD 0)
  | .seImm x nn => s.setPc (if s.reg x == nn then s.pc + 2 else s.pc)
  | .sneImm x nn => s.setPc (if s.reg x != nn then s.pc + 2 else s.pc)
  | .seReg x y => s.setPc (if s.reg x == s.reg y then s.pc + 2 else s.pc)
  | .sneReg x y => s.setPc (if s.reg x != s.reg y then s.pc + 2 else s.pc)
  | .jpV0 nnn => s.setPc (addr16 nnn + (s.jumpOffset nnn).setWidth 16)
  | .ldImm x nn => s.setReg x nn
  | .addImm x nn => s.setReg x (s.reg x + nn)
  | .ldReg x y => s.setReg x (s.reg y)
  | .orReg x y => s.setReg x (s.reg x ||| s.reg y)
  | .andReg x y => s.setReg x (s.reg x &&& s.reg y)
  | .xorReg x y => s.setReg x (s.reg x ^^^ s.reg y)
  | .addReg x y => s.setRegFlag x (s.reg x + s.reg y) (carryOut (s.reg x) (s.reg y))
  | .subReg x y => s.setRegFlag x (s.reg x - s.reg y) (noBorrow (s.reg x) (s.reg y))
  | .shr x y => s.setRegFlag x (s.shiftSource x y >>> 1) (outRight (s.shiftSource x y))
  | .subn x y => s.setRegFlag x (s.reg y - s.reg x) (noBorrow (s.reg y) (s.reg x))
  | .shl x y => s.setRegFlag x (s.shiftSource x y <<< 1) (outLeft (s.shiftSource x y))
  | .ldI nnn => s.setIndex (addr16 nnn)
  | .addI x =>
    if s.cfg.qIndexOvf then (s.setIndex (BitVec.ofNat 16 (s.indexSum x % 0x1000))).setFlag (indexOut (s.indexSum x))
    else s.setIndex (BitVec.ofNat 16 (s.indexSum x % 0x10000))
  | .rnd x nn => (s.setReg x ((Config.rand16 s.draws).setWidth 8 &&& nn)).bumpDraws
  | .drw x y n => s.drawSprite (s.drawCol x) (s.drawRow y) (drawRows n (s.drawRow y))
  | .cls => (s.setFb (Vector.replicate 32 (Vector.replicate 64 false))).setDirty true
  | .skp x => s.setPc (if s.keys.getLsbD (s.reg x).toNat == true then s.pc + 2 else s.pc)
  | .sknp x => s.setPc (if s.keys.getLsbD (s.reg x).toNat == false then s.pc + 2 else s.pc)
  | .ldKey x =>
    if s.keys = 0#16 then s.setPc (s.pc - 2) else (s.setReg x (BitVec.ofNat 8 s.reportedKey.val)).bumpDraws
  | .ldFromDt x => s.setReg x s.dt
  | .ldDt x => s.setDt (s.reg x)
  | .ldSt x => s.setSt (s.reg x)
  | .ldB x => s.memWriteBytes s.index.toNat (bcdDigits (s.reg x))
  | .ldStore x => s.memWriteBytes s.index.toNat (s.firstRegs x)
  | .ldLoad x => s.setRegs (s.loadedRegs x)
  | .ldF x => s.setIndex (s.glyphAddr (s.reg x))

/-! ## The two ways an instruction ends -/

/-- A check that raises `e` on `p` and goes on to `t` otherwise answers a next state either way. -/
theorem State.raise_or_next (p : Prop) [Decidable p] (e : Error) (s t : State) :
    (if p then s.raise e else .next t : Result) = .next ((if p then some e else none).elim t fun e => s.setErr (some e)) := by
  split <;> rfl

/-- A bounds check, with the bound as `errorOf` writes it (R45, R185). -/
theorem State.boundsChecked_eq (last : Nat) (s t : State) :
    State.boundsChecked last s t =
      .next ((if 0x1000 ≤ last then some (.dataOutOfBounds last) else none).elim t fun e => s.setErr (some e)) :=
  State.raise_or_next (0x1000 ≤ last) (.dataOutOfBounds last) s t

/-- A key test, with the range as `errorOf` writes it (R150, R151, R186). -/
theorem State.skipOnKey_eq (x : Fin 16) (down : Bool) (s : State) :
    s.skipOnKey x down =
      .next ((if (s.reg x).toNat ≤ 15 then none else some (.keyOutOfRange (s.reg x))).elim
        (s.setPc (if s.keys.getLsbD (s.reg x).toNat == down then s.pc + 2 else s.pc)) fun e => s.setErr (some e)) := by
  rw [State.skipOnKey, State.skipIf_eq, State.raise_or_next, ← ite_not]
  simp only [Nat.not_lt]
  rfl

/-- Every instruction answers a next state: ERR set to the error the rules list, or the completed instruction (R188, R190). -/
theorem exec_eq (i : Instr) (s : State) :
    exec i s = .next ((errorOf i s).elim (s.completed i) fun e => s.setErr (some e)) := by
  cases i with
  | seImm | sneImm | seReg | sneReg => exact congrArg _ (State.skipIf_eq ..)
  | skp | sknp => exact State.skipOnKey_eq ..
  | ldB | ldStore | ldLoad => exact State.boundsChecked_eq ..
  | addI x => exact (apply_ite _ _ _ _).symm
  | ldKey x => exact (apply_ite _ _ _ _).symm
  | call nnn =>
    by_cases h : s.stack.length < s.cfg.stackDepth
    · simp [exec, execCall, State.push, errorOf, State.completed, h, Nat.not_le.mpr h]
    · simp [exec, execCall, State.push, errorOf, h, Nat.not_lt.mp h, State.raise]
  | ret => cases h : s.stack <;> simp [exec, execRet, State.pop, errorOf, State.completed, h, State.raise]
  | drw x y n =>
    rw [exec_drw_next]
    by_cases h : 0 < min n (32 - s.drawRow y) ∧ 0x1000 ≤ s.index.toNat + min n (32 - s.drawRow y) - 1
    · have he : errorOf (.drw x y n) s = some _ := if_pos h
      refine .inl ⟨h.1, by omega, ?_⟩
      rw [he, ← Nat.add_sub_assoc h.1]
      rfl
    · have he : errorOf (.drw x y n) s = none := if_neg h
      exact .inr ⟨by omega, by rw [he]; rfl⟩
  | ldF x =>
    by_cases h : (s.reg x).toNat ≤ 15
    · simp [exec, execLdF, errorOf, State.completed, h, Nat.not_lt.mpr h]
    · simp [exec, execLdF, errorOf, h, Nat.not_le.mp h, State.raise]
  | _ => rfl

/-- An instruction that raises an error changes ERR alone (R188). -/
theorem exec_of_error {i : Instr} {s : State} {e : Error} (h : errorOf i s = some e) :
    exec i s = .next (s.setErr (some e)) := by rw [exec_eq, h]; rfl

/-- An instruction that raises no error is completed. -/
theorem exec_of_no_error {i : Instr} {s : State} (h : errorOf i s = none) : exec i s = .next (s.completed i) := by
  rw [exec_eq, h]; rfl

/-- The next states of an instruction: ERR set to the error of the rules, or the completed instruction. -/
theorem exec_next (i : Instr) (s t : State) :
    exec i s = .next t ↔
      (∃ e, errorOf i s = some e ∧ t = s.setErr (some e)) ∨ (errorOf i s = none ∧ t = s.completed i) := by
  rw [exec_eq]
  cases errorOf i s <;> simp [eq_comm]

/-- What an error leaves alone has changed only when the instruction was completed. -/
theorem exec_changed {α : Type} (f : State → α) {i : Instr} {s t : State} (hf : ∀ e, f (s.setErr e) = f s)
    (h : exec i s = .next t) (hne : f t ≠ f s) : errorOf i s = none ∧ t = s.completed i := by
  obtain ⟨e, -, rfl⟩ | hc := (exec_next i s t).mp h
  · exact absurd (hf _) hne
  · exact hc

/-- What an error and the completed instruction leave alone, every execution leaves alone. -/
theorem exec_keeps {α : Type} (f : State → α) {i : Instr} {s t : State} (hf : ∀ e, f (s.setErr e) = f s)
    (hc : f (s.completed i) = f s) (h : exec i s = .next t) : f t = f s := by
  obtain ⟨e, -, rfl⟩ | ⟨-, rfl⟩ := (exec_next i s t).mp h
  · exact hf _
  · exact hc

end Sys2Proof.Machine
end

section
/-! Which fields of the state a completed instruction changes: the instructions that write the field are named, and in every
other arm of `State.completed` it is the old field. -/

namespace Sys2Proof.Machine

/-- What both branches keep, the choice keeps. -/
theorem ite_keeps {α : Type} (f : State → α) {c : Prop} [Decidable c] {a b s : State} (ha : f a = f s) (hb : f b = f s) :
    f (if c then a else b) = f s := by
  split
  · exact ha
  · exact hb

/-- A draw keeps whatever does not see the buffer, the registers and DIRTY. -/
theorem State.drawSprite_keeps {α : Type} (f : State → α) {s : State}
    (hf : ∀ b v d, f { s with fb := b, v := v, dirty := d } = f s) (x0 y0 rows : Nat) : f (s.drawSprite x0 y0 rows) = f s := by
  rw [State.drawSprite_eq]
  exact hf _ _ _

/-- A draw writes the collision flag to VF and no other register (R141). -/
@[simp] theorem State.reg_drawSprite (x0 y0 rows : Nat) (s : State) (k : Fin 16) :
    (s.drawSprite x0 y0 rows).reg k = if k = 15 then (if s.collides x0 y0 rows then 1 else 0) else s.reg k := by
  simp [State.drawSprite]

/-- A draw sets DIRTY (R141). -/
@[simp] theorem State.drawSprite_dirty (x0 y0 rows : Nat) (s : State) : (s.drawSprite x0 y0 rows).dirty = true := rfl

/-! ## The two instructions whose rule has two cases without an error -/

/-- R131, `Q_INDEX_OVF`. -/
theorem State.completed_addI_wrap {s : State} (x : Fin 16) (h : s.cfg.qIndexOvf = true) :
    s.completed (.addI x) =
      (s.setIndex (BitVec.ofNat 16 (s.indexSum x % 0x1000))).setFlag (indexOut (s.indexSum x)) := if_pos h

/-- R131, not `Q_INDEX_OVF`. -/
theorem State.completed_addI_plain {s : State} (x : Fin 16) (h : s.cfg.qIndexOvf = false) :
    s.completed (.addI x) = s.setIndex (BitVec.ofNat 16 (s.indexSum x % 0x10000)) := if_neg (by simp [h])

/-- R152, no key down. -/
theorem State.completed_ldKey_wait {s : State} (x : Fin 16) (h : s.keys = 0#16) :
    s.completed (.ldKey x) = s.setPc (s.pc - 2) := if_pos h

/-- R152, some key down. -/
theorem State.completed_ldKey_store {s : State} (x : Fin 16) (h : s.keys ≠ 0#16) :
    s.completed (.ldKey x) = (s.setReg x (BitVec.ofNat 8 s.reportedKey.val)).bumpDraws := if_neg h

/-! ## Fields no instruction writes -/

@[simp] theorem State.completed_err (i : Instr) (s : State) : (s.completed i).err = s.err := by
  cases i with
  | ldLoad => exact State.setRegs_err ..
  | addI | ldKey => exact ite_keeps State.err rfl rfl
  | drw => exact State.drawSprite_keeps State.err (fun _ _ _ => rfl) ..
  | _ => rfl

@[simp] theorem State.completed_keys (i : Instr) (s : State) : (s.completed i).keys = s.keys := by
  cases i with
  | ldLoad => exact State.setRegs_keys ..
  | addI | ldKey => exact ite_keeps State.keys rfl rfl
  | drw => exact State.drawSprite_keeps State.keys (fun _ _ _ => rfl) ..
  | _ => rfl

@[simp] theorem State.completed_cfg (i : Instr) (s : State) : (s.completed i).cfg = s.cfg := by
  cases i with
  | ldLoad => exact State.setRegs_cfg ..
  | addI | ldKey => exact ite_keeps State.cfg rfl rfl
  | drw => exact State.drawSprite_keeps State.cfg (fun _ _ _ => rfl) ..
  | _ => rfl

@[simp] theorem State.completed_agenda (i : Instr) (s : State) : (s.completed i).agenda = s.agenda := by
  cases i with
  | ldLoad => exact State.setRegs_agenda ..
  | addI | ldKey => exact ite_keeps State.agenda rfl rfl
  | drw => exact State.drawSprite_keeps State.agenda (fun _ _ _ => rfl) ..
  | _ => rfl

/-! ## Fields that some instructions write -/

/-- R22: only RND and LD Vx,K take a free value. -/
theorem State.completed_draws_ne {i : Instr} {s : State} (h : (s.completed i).draws ≠ s.draws) :
    (∃ x nn, i = .rnd x nn) ∨ ∃ x, i = .ldKey x := by
  cases i with
  | rnd x nn => exact .inl ⟨x, nn, rfl⟩
  | ldKey x => exact .inr ⟨x, rfl⟩
  | ldLoad => exact (h (State.setRegs_draws ..)).elim
  | addI => exact (h (ite_keeps State.draws rfl rfl)).elim
  | drw => exact (h (State.drawSprite_keeps State.draws (fun _ _ _ => rfl) ..)).elim
  | _ => exact (h rfl).elim

/-- R17: only CLS and DRW write the display. -/
theorem State.completed_fb_ne {i : Instr} {s : State} (h : (s.completed i).fb ≠ s.fb) :
    i = .cls ∨ ∃ x y n, i = .drw x y n := by
  cases i with
  | cls => exact .inl rfl
  | drw x y n => exact .inr ⟨x, y, n, rfl⟩
  | ldLoad => exact (h (State.setRegs_fb ..)).elim
  | addI | ldKey => exact (h (ite_keeps State.fb rfl rfl)).elim
  | _ => exact (h rfl).elim

/-- R18: only CLS and DRW write DIRTY. -/
theorem State.completed_dirty_ne {i : Instr} {s : State} (h : (s.completed i).dirty ≠ s.dirty) :
    i = .cls ∨ ∃ x y n, i = .drw x y n := by
  cases i with
  | cls => exact .inl rfl
  | drw x y n => exact .inr ⟨x, y, n, rfl⟩
  | ldLoad => exact (h (State.setRegs_dirty ..)).elim
  | addI | ldKey => exact (h (ite_keeps State.dirty rfl rfl)).elim
  | _ => exact (h rfl).elim

/-- R40: only LD B and LD [I] write memory. -/
theorem State.completed_mem_ne {i : Instr} {s : State} (h : (s.completed i).mem ≠ s.mem) :
    ∃ x, i = .ldB x ∨ i = .ldStore x := by
  cases i with
  | ldB x => exact ⟨x, .inl rfl⟩
  | ldStore x => exact ⟨x, .inr rfl⟩
  | ldLoad => exact (h (State.setRegs_mem ..)).elim
  | addI | ldKey => exact (h (ite_keeps State.mem rfl rfl)).elim
  | drw => exact (h (State.drawSprite_keeps State.mem (fun _ _ _ => rfl) ..)).elim
  | _ => exact (h rfl).elim

/-- R14: only CALL, which pushes PC, and RET, which pops, write the stack. -/
theorem State.completed_stack_ne {i : Instr} {s : State} (h : (s.completed i).stack ≠ s.stack) :
    (∃ nnn, i = .call nnn ∧ (s.completed i).stack = s.pc :: s.stack) ∨
      (i = .ret ∧ (s.completed i).stack = s.stack.tail) := by
  cases i with
  | call nnn => exact .inl ⟨nnn, rfl, rfl⟩
  | ret => exact .inr ⟨rfl, rfl⟩
  | ldLoad => exact (h (State.setRegs_stack ..)).elim
  | addI | ldKey => exact (h (ite_keeps State.stack rfl rfl)).elim
  | drw => exact (h (State.drawSprite_keeps State.stack (fun _ _ _ => rfl) ..)).elim
  | _ => exact (h rfl).elim

/-- R12: only LD I, ADD I and LD F write I. -/
theorem State.completed_index_ne {i : Instr} {s : State} (h : (s.completed i).index ≠ s.index) :
    (∃ nnn, i = .ldI nnn) ∨ ∃ x, i = .addI x ∨ i = .ldF x := by
  cases i with
  | ldI nnn => exact .inl ⟨nnn, rfl⟩
  | addI x => exact .inr ⟨x, .inl rfl⟩
  | ldF x => exact .inr ⟨x, .inr rfl⟩
  | ldLoad => exact (h (State.setRegs_index ..)).elim
  | ldKey => exact (h (ite_keeps State.index rfl rfl)).elim
  | drw => exact (h (State.drawSprite_keeps State.index (fun _ _ _ => rfl) ..)).elim
  | _ => exact (h rfl).elim

/-- R15: only LD DT writes DT. -/
theorem State.completed_dt_ne {i : Instr} {s : State} (h : (s.completed i).dt ≠ s.dt) : ∃ x, i = .ldDt x := by
  cases i with
  | ldDt x => exact ⟨x, rfl⟩
  | ldLoad => exact (h (State.setRegs_dt ..)).elim
  | addI | ldKey => exact (h (ite_keeps State.dt rfl rfl)).elim
  | drw => exact (h (State.drawSprite_keeps State.dt (fun _ _ _ => rfl) ..)).elim
  | _ => exact (h rfl).elim

/-- R16: only LD ST writes ST. -/
theorem State.completed_st_ne {i : Instr} {s : State} (h : (s.completed i).st ≠ s.st) : ∃ x, i = .ldSt x := by
  cases i with
  | ldSt x => exact ⟨x, rfl⟩
  | ldLoad => exact (h (State.setRegs_st ..)).elim
  | addI | ldKey => exact (h (ite_keeps State.st rfl rfl)).elim
  | drw => exact (h (State.drawSprite_keeps State.st (fun _ _ _ => rfl) ..)).elim
  | _ => exact (h rfl).elim

end Sys2Proof.Machine
end

section
/-! The registers and PC after a completed instruction (spec/10_state.md R10, R11, R13). -/

namespace Sys2Proof.Machine

/-! ## Registers -/

/-- A register write changes no other register. -/
theorem State.eq_of_reg_setReg_ne {s : State} {x k : Fin 16} {b : Byte} (h : (s.setReg x b).reg k ≠ s.reg k) : k = x := by
  by_contra hk
  exact h (by simp [hk])

/-- A result with its flag changes no register but the two. -/
theorem State.eq_of_reg_setRegFlag_ne {s : State} {x k : Fin 16} {r : Byte} {f : Bool}
    (h : (s.setRegFlag x r f).reg k ≠ s.reg k) : k = x ∨ k = 15 := by
  by_contra hk
  rw [not_or] at hk
  exact h (by simp [hk])

/-- A flag write leaves VF 0 or 1 (R11, R122). -/
theorem State.vf_setFlag (s : State) (f : Bool) : (s.setFlag f).reg 15 = 0 ∨ (s.setFlag f).reg 15 = 1 := by
  cases f <;> simp

/-- A draw leaves VF 0 or 1 (R141). -/
theorem State.vf_drawSprite (x0 y0 rows : Nat) (s : State) :
    (s.drawSprite x0 y0 rows).reg 15 = 0 ∨ (s.drawSprite x0 y0 rows).reg 15 = 1 := by
  rw [State.reg_drawSprite, if_pos rfl]
  exact (ite_eq_or_eq ..).symm

/-- R10, R11: a register is written only as a destination, or as VF by an instruction that defines the flag. -/
theorem State.completed_reg_ne {i : Instr} {s : State} {k : Fin 16} (h : (s.completed i).reg k ≠ s.reg k) :
    i.names k ∨ (k = 15 ∧ i.definesFlag s.cfg) := by
  cases i with
  | ldImm | addImm | ldReg | orReg | andReg | xorReg | ldFromDt => exact .inl (State.eq_of_reg_setReg_ne h)
  | rnd x nn => exact .inl (State.eq_of_reg_setReg_ne (s := s) (x := x) h)
  | addReg | subReg | shr | subn | shl => exact (State.eq_of_reg_setRegFlag_ne h).imp_right fun hk => ⟨hk, trivial⟩
  | drw x y n => exact .inr ⟨by_contra fun hk => h ((State.reg_drawSprite ..).trans (if_neg hk)), trivial⟩
  | addI x =>
    cases hq : s.cfg.qIndexOvf with
    | true => exact .inr ⟨by_contra fun hk => h (by simp [State.completed_addI_wrap x hq, hk]), hq⟩
    | false => exact (h (by simp [State.completed_addI_plain x hq])).elim
  | ldKey x =>
    by_cases hk : s.keys = 0#16
    · exact (h (by simp [State.completed_ldKey_wait x hk])).elim
    · rw [State.completed_ldKey_store x hk] at h
      exact .inl (State.eq_of_reg_setReg_ne (s := s) (x := x) h)
  | ldLoad x => exact .inl (by_contra fun hk => h ((State.reg_loadedRegs x k s).trans (if_neg hk)))
  | _ => exact (h rfl).elim

/-- R11, R122: an instruction that defines the flag leaves VF 0 or 1. -/
theorem State.completed_vf {i : Instr} {s : State} (h : i.definesFlag s.cfg) :
    (s.completed i).reg 15 = 0 ∨ (s.completed i).reg 15 = 1 := by
  cases i with
  | addReg | subReg | shr | subn | shl => exact State.vf_setFlag ..
  | drw => exact State.vf_drawSprite ..
  | addI x =>
    rw [State.completed_addI_wrap x h]
    exact State.vf_setFlag ..
  | _ => exact h.elim

/-! ## PC -/

/-- A choice of PC that changes it takes the skip. -/
theorem skip_of_ne {c : Prop} [Decidable c] {p : Word} (h : (if c then p + 2 else p) ≠ p) :
    (if c then p + 2 else p) = p + 2 := by
  by_cases hc : c
  · exact if_pos hc
  · exact absurd (if_neg hc) h

/-- JP V0 does not wrap: the sum stays below 0x10FF (R107). -/
theorem addr16_add_toNat (nnn : BitVec 12) (b : Byte) : (addr16 nnn + b.setWidth 16).toNat = nnn.toNat + b.toNat := by
  have := nnn.isLt
  have := b.isLt
  simp only [BitVec.toNat_add, addr16_toNat, BitVec.toNat_setWidth]
  omega

/-- RET completes only with an entry on the stack, which goes to PC (R100). -/
theorem State.stack_of_completed_ret {s : State} (h : errorOf .ret s = none) :
    s.stack = (s.completed .ret).pc :: (s.completed .ret).stack := by
  show s.stack = s.stack.headD 0 :: s.stack.tail
  cases hs : s.stack with
  | nil => simp [errorOf, hs] at h
  | cons w rest => rfl

/-- R13, R107: the only ways a completed instruction changes PC. -/
theorem State.completed_pc_ne {i : Instr} {s : State} (h : (s.completed i).pc ≠ s.pc) :
    (∃ nnn, (i = .jp nnn ∨ i = .call nnn) ∧ (s.completed i).pc.toNat = nnn.toNat) ∨
    (i = .ret ∧ (s.completed i).pc = s.stack.headD 0) ∨
    ((∃ x nn, i = .seImm x nn ∨ i = .sneImm x nn) ∧ (s.completed i).pc = s.pc + 2) ∨
    ((∃ x y, i = .seReg x y ∨ i = .sneReg x y) ∧ (s.completed i).pc = s.pc + 2) ∨
    ((∃ x, i = .skp x ∨ i = .sknp x) ∧ (s.completed i).pc = s.pc + 2) ∨
    (∃ nnn, i = .jpV0 nnn ∧
      (s.completed i).pc.toNat = nnn.toNat + (s.reg (if s.cfg.qJumpVx then addrReg nnn else 0)).toNat) ∨
    (∃ x, i = .ldKey x ∧ s.keys = 0#16 ∧ (s.completed i).pc = s.pc - 2) := by
  cases i with
  | jp nnn => exact .inl ⟨nnn, .inl rfl, addr16_toNat nnn⟩
  | call nnn => exact .inl ⟨nnn, .inr rfl, addr16_toNat nnn⟩
  | ret => exact .inr (.inl ⟨rfl, rfl⟩)
  | seImm x nn => exact .inr (.inr (.inl ⟨⟨x, nn, .inl rfl⟩, skip_of_ne h⟩))
  | sneImm x nn => exact .inr (.inr (.inl ⟨⟨x, nn, .inr rfl⟩, skip_of_ne h⟩))
  | seReg x y => exact .inr (.inr (.inr (.inl ⟨⟨x, y, .inl rfl⟩, skip_of_ne h⟩)))
  | sneReg x y => exact .inr (.inr (.inr (.inl ⟨⟨x, y, .inr rfl⟩, skip_of_ne h⟩)))
  | skp x => exact .inr (.inr (.inr (.inr (.inl ⟨⟨x, .inl rfl⟩, skip_of_ne h⟩))))
  | sknp x => exact .inr (.inr (.inr (.inr (.inl ⟨⟨x, .inr rfl⟩, skip_of_ne h⟩))))
  | jpV0 nnn =>
    refine .inr (.inr (.inr (.inr (.inr (.inl ⟨nnn, rfl, ?_⟩)))))
    rw [apply_ite s.reg]
    exact addr16_add_toNat nnn (s.jumpOffset nnn)
  | ldKey x =>
    by_cases hk : s.keys = 0#16
    · exact .inr (.inr (.inr (.inr (.inr (.inr ⟨x, rfl, hk, congrArg State.pc (State.completed_ldKey_wait x hk)⟩)))))
    · exact (h (by rw [State.completed_ldKey_store x hk]; rfl)).elim
  | ldLoad => exact (h (State.setRegs_pc ..)).elim
  | addI => exact (h (ite_keeps State.pc rfl rfl)).elim
  | drw => exact (h (State.drawSprite_keeps State.pc (fun _ _ _ => rfl) ..)).elim
  | _ => exact (h rfl).elim

end Sys2Proof.Machine
end

section
/-! The statements of spec/10_state.md about single instructions: what each may change. -/

namespace Sys2Proof.Machine

/-- Settles O15: a changed field means a completed instruction, and `State.completed` writes it in the named arms alone. -/
theorem eachPartIsChangedOnlyByItsInstructions : Obligations.EachPartIsChangedOnlyByItsInstructions := by
  unfold Obligations.EachPartIsChangedOnlyByItsInstructions
  intro i s t h
  refine ⟨?_, fun hm => ?_, fun hk => ?_, fun hi => ?_⟩
  · rintro (hf | hd)
    · obtain ⟨-, rfl⟩ := exec_changed State.fb (fun _ => rfl) h hf
      exact State.completed_fb_ne hf
    · obtain ⟨-, rfl⟩ := exec_changed State.dirty (fun _ => rfl) h hd
      exact State.completed_dirty_ne hd
  · obtain ⟨-, rfl⟩ := exec_changed State.mem (fun _ => rfl) h hm
    exact State.completed_mem_ne hm
  · obtain ⟨-, rfl⟩ := exec_changed State.stack (fun _ => rfl) h hk
    obtain hcall | ⟨hret, htail⟩ := State.completed_stack_ne hk
    · exact .inl hcall
    · rw [htail] at hk ⊢
      cases hs : s.stack with
      | nil => exact absurd (by rw [hs]; rfl) hk
      | cons w rest => exact .inr ⟨hret, w, rfl⟩
  · obtain ⟨-, rfl⟩ := exec_changed State.index (fun _ => rfl) h hi
    exact State.completed_index_ne hi

/-- Settles O16, from the registers a completed instruction writes. -/
theorem registersChangedOnlyByDestinations : Obligations.RegistersChangedOnlyByDestinations := by
  unfold Obligations.RegistersChangedOnlyByDestinations
  intro i s t k h hk
  obtain ⟨-, rfl⟩ := exec_changed (State.reg · k) (fun _ => rfl) h hk
  exact State.completed_reg_ne hk

/-- Settles O17: an instruction that raises nothing is completed, and the flag is the last register it writes. -/
theorem flagIsAlwaysZeroOrOne : Obligations.FlagIsAlwaysZeroOrOne := by
  unfold Obligations.FlagIsAlwaysZeroOrOne
  intro i s hf he
  exact ⟨s.completed i, exec_of_no_error he, State.completed_vf hf⟩

/-- Settles O18, from the ways a completed instruction changes PC; RET completes only with an entry to pop. -/
theorem pcChangedOnlyAsListed : Obligations.PcChangedOnlyAsListed := by
  unfold Obligations.PcChangedOnlyAsListed
  intro i s t h hp
  obtain ⟨he, rfl⟩ := exec_changed State.pc (fun _ => rfl) h hp
  refine (State.completed_pc_ne hp).imp_right (Or.imp_left ?_)
  rintro ⟨rfl, -⟩
  exact ⟨rfl, State.stack_of_completed_ret he⟩

/-- Settles O19: neither an error nor a completed instruction touches the three, and only two arms count a draw. -/
theorem execKeepsInputsAndParameters : Obligations.ExecKeepsInputsAndParameters := by
  unfold Obligations.ExecKeepsInputsAndParameters
  intro i s t h
  refine ⟨?_, ?_, ?_, fun hd => ?_⟩
  · exact exec_keeps State.cfg (fun _ => rfl) (State.completed_cfg i s) h
  · exact exec_keeps State.keys (fun _ => rfl) (State.completed_keys i s) h
  · exact exec_keeps State.agenda (fun _ => rfl) (State.completed_agenda i s) h
  · obtain ⟨-, rfl⟩ := exec_changed State.draws (fun _ => rfl) h hd
    exact State.completed_draws_ne hd

end Sys2Proof.Machine
end

section
/-! Pieces of the state that an instruction does not read: it answers the same with the piece exchanged (spec/10_state.md R15,
R16, R18, R21). -/

namespace Sys2Proof.Machine

/-- An update that neither the error nor the completed instruction sees passes through the instruction. -/
theorem exec_update {i : Instr} {s : State} (f : State → State) (hr : ∀ e, (f s).setErr e = f (s.setErr e))
    (he : errorOf i (f s) = errorOf i s) (hc : errorOf i s = none → (f s).completed i = f (s.completed i)) :
    exec i (f s) = mapNext f (exec i s) := by
  cases h : errorOf i s with
  | none => rw [exec_of_no_error (he.trans h), exec_of_no_error h, hc h]; rfl
  | some e => rw [exec_of_error (he.trans h), exec_of_error h, hr]; rfl

/-- An update passes through a choice whose condition does not see it. -/
theorem ite_update (f : State → State) {c : Prop} [Decidable c] {a b a' b' : State} (ha : a' = f a) (hb : b' = f b) :
    (if c then a' else b') = f (if c then a else b) := by
  rw [ha, hb, apply_ite f]

/-! ## No error rests on the timers, DIRTY or the key states -/

theorem errorOf_setDt (i : Instr) (s : State) (d : Byte) : errorOf i (s.setDt d) = errorOf i s := by
  cases i <;> rfl

theorem errorOf_setSt (i : Instr) (s : State) (d : Byte) : errorOf i (s.setSt d) = errorOf i s := by
  cases i <;> rfl

theorem errorOf_setDirty (i : Instr) (s : State) (d : Bool) : errorOf i (s.setDirty d) = errorOf i s := by
  cases i <;> rfl

theorem errorOf_setKeys (i : Instr) (s : State) (k : BitVec 16) : errorOf i (s.setKeys k) = errorOf i s := by
  cases i <;> rfl

/-! ## What a completed instruction does not read -/

/-- R15: only LD Vx,DT reads DT. -/
theorem State.completed_setDt {i : Instr} (s : State) (d : Byte) (hw : ∀ x, i ≠ .ldDt x) (hr : ∀ x, i ≠ .ldFromDt x) :
    (s.setDt d).completed i = (s.completed i).setDt d := by
  cases i with
  | ldDt x => exact absurd rfl (hw x)
  | ldFromDt x => exact absurd rfl (hr x)
  | addI | ldKey => exact ite_update (State.setDt d) rfl rfl
  | _ => rfl

/-- R16: no instruction reads ST. -/
theorem State.completed_setSt {i : Instr} (s : State) (d : Byte) (hw : ∀ x, i ≠ .ldSt x) :
    (s.setSt d).completed i = (s.completed i).setSt d := by
  cases i with
  | ldSt x => exact absurd rfl (hw x)
  | addI | ldKey => exact ite_update (State.setSt d) rfl rfl
  | _ => rfl

/-- R18: no instruction reads DIRTY. -/
theorem State.completed_setDirty {i : Instr} (s : State) (d : Bool) (hc : i ≠ .cls) (hd : ∀ x y n, i ≠ .drw x y n) :
    (s.setDirty d).completed i = (s.completed i).setDirty d := by
  cases i with
  | cls => exact absurd rfl hc
  | drw x y n => exact absurd rfl (hd x y n)
  | addI | ldKey => exact ite_update (State.setDirty d) rfl rfl
  | _ => rfl

/-- R18: CLS and a completed DRW set DIRTY, whatever it was. -/
theorem State.completed_setDirty_of_sets {i : Instr} (s : State) (d : Bool) (h : i = .cls ∨ ∃ x y n, i = .drw x y n) :
    (s.setDirty d).completed i = s.completed i := by
  obtain rfl | ⟨x, y, n, rfl⟩ := h
  · rfl
  · rfl

/-- R21, R89: only SKP, SKNP and LD Vx,K read the key states. -/
theorem State.completed_setKeys {i : Instr} (s : State) (k : BitVec 16) (hp : ∀ x, i ≠ .skp x) (hn : ∀ x, i ≠ .sknp x)
    (hk : ∀ x, i ≠ .ldKey x) : (s.setKeys k).completed i = (s.completed i).setKeys k := by
  cases i with
  | skp x => exact absurd rfl (hp x)
  | sknp x => exact absurd rfl (hn x)
  | ldKey x => exact absurd rfl (hk x)
  | addI => exact ite_update (State.setKeys k) rfl rfl
  | _ => rfl

/-- R23: the sound is on exactly while ST is not 0. -/
theorem State.soundActive_iff (s : State) : s.soundActive = true ↔ s.st.toNat ≠ 0 := by
  rw [State.soundActive, bne_iff_ne, ne_eq, ne_eq, ← BitVec.toNat_inj]
  rfl

/-- Settles O23: neither an error nor the other instructions' completion reads the key states. -/
theorem keysReadOnlyByTheirInstructions : Obligations.KeysReadOnlyByTheirInstructions := by
  unfold Obligations.KeysReadOnlyByTheirInstructions
  intro i s k hp hn hk
  exact exec_update (State.setKeys k) (fun _ => rfl) (errorOf_setKeys i s k) fun _ => s.completed_setKeys k hp hn hk

/-- Settles O20, from the meanings of the two instructions, the tick of one counter, and DT passing unread through the others. -/
theorem delayTimerIsReadAndWrittenAsStated : Obligations.DelayTimerIsReadAndWrittenAsStated := by
  unfold Obligations.DelayTimerIsReadAndWrittenAsStated
  refine ⟨fun x s => ?writes, fun x s => ?reads, fun s => tickDown_toNat s.dt,
    fun i s t h hd => ?only, fun i s d hw hr => ?unread⟩
  case writes => exact ⟨_, exec_ldDt x s, rfl, rfl⟩
  case reads => exact ⟨_, exec_ldFromDt x s, by simp, rfl, fun k hk => by simp [hk]⟩
  case only =>
    obtain ⟨-, rfl⟩ := exec_changed State.dt (fun _ => rfl) h hd
    exact State.completed_dt_ne hd
  case unread =>
    exact exec_update (State.setDt d) (fun _ => rfl) (errorOf_setDt i s d) fun _ => s.completed_setDt d hw hr

/-- Settles O21, as for DT, except that no instruction reads ST. -/
theorem soundTimerIsReadAndWrittenAsStated : Obligations.SoundTimerIsReadAndWrittenAsStated := by
  unfold Obligations.SoundTimerIsReadAndWrittenAsStated
  refine ⟨fun x s => ?writes, fun s => tickDown_toNat s.st,
    fun i s t h hd => ?only, fun s => ?output, fun i s d hw => ?unread⟩
  case writes => exact ⟨_, exec_ldSt x s, rfl, rfl⟩
  case only =>
    obtain ⟨-, rfl⟩ := exec_changed State.st (fun _ => rfl) h hd
    exact State.completed_st_ne hd
  case output => exact s.soundActive_iff
  case unread =>
    exact exec_update (State.setSt d) (fun _ => rfl) (errorOf_setSt i s d) fun _ => s.completed_setSt d hw

end Sys2Proof.Machine
end

section
/-! What a step of the machine can do, said once for every agenda (spec/40_step_and_host_ops.md R80, R86, R92, R93). -/

namespace Sys2Proof.Machine

/-- The state in which the next operation runs: its turn is off the agenda. -/
def State.dequeued (s : State) : State := s.setAgenda s.agenda.tail

theorem State.dequeued_of_nil {s : State} (h : s.agenda = []) : s.dequeued = s := by
  show s.setAgenda s.agenda.tail = s
  rw [h, List.tail_nil, ← h]
  rfl

theorem State.dequeued_of_cons {s : State} {turn : Turn} {rest : List Turn} (h : s.agenda = turn :: rest) :
    s.dequeued = s.setAgenda rest := by
  rw [State.dequeued, h]
  rfl

/-- With an operation waiting, a step is its turn. -/
theorem step_of_cons {s : State} {turn : Turn} {rest : List Turn} (h : s.agenda = turn :: rest) :
    step s = (s.setAgenda rest).runTurn turn := by
  rw [step, State.nextTurn, h]

/-- The next states of a step from `s`. -/
inductive State.StepsTo (s : State) : State → Prop
  /-- An operation of another agent, a `fetch`, or a turn of a halted core. -/
  | turn {turn : Turn} {rest : List Turn} (h : s.agenda = turn :: rest) : s.StepsTo (s.dequeued.turnState turn)
  /-- A Step whose fetch fails. -/
  | fetchFailed (he : s.err = none) (hp : 0xFFF ≤ s.pc.toNat) : s.StepsTo (s.dequeued.setErr (some (.outOfBounds s.pc)))
  /-- A Step of an unknown word or of an instruction that raises. -/
  | stepRaised (he : s.err = none) (hp : s.pc.toNat < 0xFFF) (e : Error) :
    s.StepsTo ((s.dequeued.setPc (s.pc + 2)).setErr (some e))
  /-- A Step that completes its instruction. -/
  | stepCompleted (he : s.err = none) (hp : s.pc.toNat < 0xFFF) (i : Instr)
    (hi : errorOf i (s.dequeued.setPc (s.pc + 2)) = none) : s.StepsTo ((s.dequeued.setPc (s.pc + 2)).completed i)
  /-- A `decode_execute` called on its own that raises. -/
  | directRaised {w : Word} {rest : List Turn} (h : s.agenda = .decodeExecute w :: rest) (he : s.err = none) (e : Error) :
    s.StepsTo (s.dequeued.setErr (some e))
  /-- A `decode_execute` called on its own that completes its instruction. -/
  | directCompleted {w : Word} {rest : List Turn} (h : s.agenda = .decodeExecute w :: rest) (he : s.err = none) (i : Instr)
    (hi : errorOf i s.dequeued = none) : s.StepsTo (s.dequeued.completed i)

/-- A Step of the core, run after its turn is taken. -/
theorem State.stepsTo_of_coreStep {s t : State} (h : s.dequeued.coreStep = .next t) : s.StepsTo t := by
  obtain ⟨he, ⟨hp, rfl⟩ | ⟨hp, ⟨f, -, rfl⟩ | ⟨i, -, hx⟩⟩⟩ := (State.coreStep_next _ t).mp h
  · exact .fetchFailed (s := s) he hp
  · exact .stepRaised (s := s) he hp _
  · obtain ⟨e, -, rfl⟩ | ⟨hi, rfl⟩ := (exec_next i _ t).mp hx
    · exact .stepRaised (s := s) he hp e
    · exact .stepCompleted (s := s) he hp i hi

/-- A `decode_execute` called on its own, run after its turn is taken. -/
theorem State.stepsTo_of_decodeExecute {s t : State} {w : Word} {rest : List Turn} (ha : s.agenda = .decodeExecute w :: rest)
    (h : s.dequeued.decodeExecute w = .next t) : s.StepsTo t := by
  obtain ⟨he, ⟨f, -, rfl⟩ | ⟨i, -, hx⟩⟩ := (State.decodeExecute_next w _ t).mp h
  · exact .directRaised ha he _
  · obtain ⟨e, -, rfl⟩ | ⟨hi, rfl⟩ := (exec_next i _ t).mp hx
    · exact .directRaised ha he e
    · exact .directCompleted ha he i hi

/-- Every next state of a step is one of these. -/
theorem step_stepsTo {s t : State} (h : step s = .next t) : s.StepsTo t := by
  obtain ⟨ha, hc⟩ | ⟨turn, rest, ha, hr⟩ := (step_next s t).mp h
  · rw [← State.dequeued_of_nil ha] at hc
    exact State.stepsTo_of_coreStep hc
  · rw [← State.dequeued_of_cons ha] at hr
    obtain ⟨-, -, hc⟩ | ⟨w, rfl, -, hd⟩ | ⟨-, rfl⟩ := (State.runTurn_next turn _ t).mp hr
    · exact State.stepsTo_of_coreStep hc
    · exact State.stepsTo_of_decodeExecute ha hd
    · exact .turn ha

/-- The state a fetch leaves (R84). -/
theorem State.fetch_state (s : State) :
    s.fetch.2 = s ∨ (∃ e, s.fetch.2 = s.setErr (some e)) ∨ (s.pc.toNat < 0xFFF ∧ s.fetch.2 = s.setPc (s.pc + 2)) := by
  obtain ⟨-, hf⟩ | ⟨-, -, hf⟩ | ⟨-, hp, hf⟩ := s.fetch_cases
  · exact .inl (by rw [hf])
  · exact .inr (.inl ⟨_, by rw [hf]; rfl⟩)
  · exact .inr (.inr ⟨hp, by rw [hf]; rfl⟩)

/-- A property that the agenda, PC and ERR do not bear on, and that every other turn and every completed instruction keeps, is
kept by every step. -/
theorem step_keeps (P : State → Prop) (hagenda : ∀ s l, P s → P (s.setAgenda l)) (hpc : ∀ s w, P s → P (s.setPc w))
    (herr : ∀ s e, P s → P (s.setErr e)) (hturn : ∀ turn s, turn ≠ .fetch → P s → P (s.turnState turn))
    (hexec : ∀ i s, errorOf i s = none → P s → P (s.completed i)) {s t : State} (h : step s = .next t) (hs : P s) :
    P t := by
  have hd : P s.dequeued := hagenda s _ hs
  cases step_stepsTo h with
  | @turn turn =>
    by_cases hf : turn = .fetch
    · subst hf
      show P s.dequeued.fetch.2
      obtain hk | ⟨e, hk⟩ | ⟨-, hk⟩ := s.dequeued.fetch_state <;> rw [hk]
      · exact hd
      · exact herr _ _ hd
      · exact hpc _ _ hd
    · exact hturn _ _ hf hd
  | fetchFailed => exact herr _ _ hd
  | stepRaised => exact herr _ _ (hpc _ _ hd)
  | stepCompleted _ _ i hi => exact hexec i _ hi (hpc _ _ hd)
  | directRaised => exact herr _ _ hd
  | directCompleted _ _ i hi => exact hexec i _ hi hd

end Sys2Proof.Machine
end

section
/-! The invariants of spec/10_state.md R26: `State.Inv`, which every operation keeps, and `State.StepInv`, which every operation keeps
while no `decode_execute` is called on its own; and the dirty flag of R18. -/

namespace Sys2Proof.Machine

/-! ## Memory and parameters (R19, R24) -/

theorem State.memWriteBytes_mem_wf {s : State} (a : Nat) (bs : List Byte) (h : s.mem.wf = true) :
    (s.memWriteBytes a bs).mem.wf = true := Memory.wf_writeBytes bs s.mem a h

theorem State.completed_mem_wf (i : Instr) {s : State} (h : s.mem.wf = true) : (s.completed i).mem.wf = true := by
  by_cases hm : (s.completed i).mem = s.mem
  · rw [hm]
    exact h
  · obtain ⟨x, rfl | rfl⟩ := State.completed_mem_ne hm
    · exact State.memWriteBytes_mem_wf _ _ h
    · exact State.memWriteBytes_mem_wf _ _ h

/-- A load is refused, or it stores its bytes and sets PC (R83, R198). -/
theorem State.turnState_loadProgram (bytes : List Byte) (s : State) :
    s.turnState (.loadProgram bytes) = (s.memWriteBytes 0x200 bytes).setPc 0x200 ∨ s.turnState (.loadProgram bytes) = s :=
  ite_eq_or_eq ..

theorem State.turnState_mem_wf {turn : Turn} {s : State} (hf : turn ≠ .fetch) (h : s.mem.wf = true) :
    (s.turnState turn).mem.wf = true := by
  cases turn with
  | fetch => exact absurd rfl hf
  | initFont => exact State.memWriteBytes_mem_wf _ _ h
  | loadProgram bytes =>
    obtain hl | hl := s.turnState_loadProgram bytes <;> rw [hl]
    · exact State.memWriteBytes_mem_wf _ _ h
    · exact h
  | reset => exact State.reset_mem_wf
  | core | decodeExecute | tick | keys | clearDirty => exact h

theorem State.turnState_cfg {turn : Turn} {s : State} (hf : turn ≠ .fetch) : (s.turnState turn).cfg = s.cfg := by
  cases turn with
  | fetch => exact absurd rfl hf
  | loadProgram bytes => exact ite_keeps State.cfg rfl rfl
  | core | decodeExecute | tick | keys | clearDirty | initFont | reset => rfl

/-- No step changes the parameters (R24). -/
theorem step_cfg {s t : State} (h : step s = .next t) : t.cfg = s.cfg :=
  step_keeps (fun u => u.cfg = s.cfg) (fun _ _ => id) (fun _ _ => id) (fun _ _ => id)
    (fun _ _ hf hu => (State.turnState_cfg hf).trans hu) (fun i u _ hu => (State.completed_cfg i u).trans hu) h rfl

/-- Every step keeps memory in canonical form (R19). -/
theorem step_mem_wf {s t : State} (h : step s = .next t) (hs : s.mem.wf = true) : t.mem.wf = true :=
  step_keeps (fun u => u.mem.wf = true) (fun _ _ => id) (fun _ _ => id) (fun _ _ => id)
    (fun _ _ hf => State.turnState_mem_wf hf) (fun i _ _ => State.completed_mem_wf i) h hs

/-- Settles O60: no operation writes memory but by runs of stores and by reset, and none writes the parameters. -/
theorem everyStepKeepsMemoryFormAndParameters : Obligations.EveryStepKeepsMemoryFormAndParameters := by
  unfold Obligations.EveryStepKeepsMemoryFormAndParameters
  exact fun s t h => ⟨step_mem_wf h, step_cfg h⟩

/-! ## I and the depth of the stack (R26 (a), (e)) -/

/-- With sound parameters a glyph's address is below 0x200 (R160). -/
theorem State.glyphAddr_toNat_le {s : State} {d : Byte} (hc : s.cfg.wellFormed = true) (hd : d.toNat ≤ 15) :
    (s.glyphAddr d).toNat ≤ 0x0FFF := by
  have hb : s.cfg.fontBase + 80 ≤ 0x200 := by simpa [Config.wellFormed] using hc
  rw [State.glyphAddr, BitVec.toNat_ofNat]
  exact (Nat.mod_le ..).trans (by omega)

/-- R26 (a): under `Q_INDEX_OVF` what an instruction writes to I is within 12 bits. -/
theorem State.completed_index_le {i : Instr} {s : State} (he : errorOf i s = none) (hc : s.cfg.wellFormed = true)
    (hq : s.cfg.qIndexOvf = true) (h : s.index.toNat ≤ 0x0FFF) : (s.completed i).index.toNat ≤ 0x0FFF := by
  by_cases hi : (s.completed i).index = s.index
  · rw [hi]
    exact h
  · obtain ⟨nnn, rfl⟩ | ⟨x, rfl | rfl⟩ := State.completed_index_ne hi
    · show (addr16 nnn).toNat ≤ 0x0FFF
      have := nnn.isLt
      rw [addr16_toNat]
      omega
    · rw [State.completed_addI_wrap x hq, State.setFlag_index, State.setIndex_index, BitVec.toNat_ofNat]
      omega
    · refine State.glyphAddr_toNat_le hc (Nat.not_lt.mp fun hlt => ?_)
      simp [errorOf, Nat.not_le.mpr hlt] at he

/-- R26 (e): CALL pushes only below the depth. -/
theorem State.completed_stack_length_le {i : Instr} {s : State} (he : errorOf i s = none)
    (h : s.stack.length ≤ s.cfg.stackDepth) : (s.completed i).stack.length ≤ s.cfg.stackDepth := by
  by_cases hk : (s.completed i).stack = s.stack
  · rw [hk]
    exact h
  · obtain ⟨nnn, rfl, hk⟩ | ⟨rfl, hk⟩ := State.completed_stack_ne hk <;> rw [hk]
    · by_contra hn
      have hfull : ¬ s.stack.length < s.cfg.stackDepth := hn
      simp [errorOf, hfull] at he
    · rw [List.length_tail]
      omega

theorem State.completed_inv {i : Instr} {s : State} (he : errorOf i s = none) (h : s.Inv) : (s.completed i).Inv := by
  obtain ⟨hm, hc, hi, hk⟩ := h
  rw [State.Inv, State.completed_cfg]
  exact ⟨State.completed_mem_wf i hm, hc, fun hq => State.completed_index_le he hc hq (hi hq),
    State.completed_stack_length_le he hk⟩

/-- Every other agent leaves I and the stack alone, or clears them (R81). -/
theorem State.turnState_inv {turn : Turn} {s : State} (hf : turn ≠ .fetch) (h : s.Inv) : (s.turnState turn).Inv := by
  obtain ⟨hm, hc, hi, hk⟩ := h
  rw [State.Inv, State.turnState_cfg hf]
  refine ⟨State.turnState_mem_wf hf hm, hc, ?_⟩
  cases turn with
  | fetch => exact absurd rfl hf
  | loadProgram bytes => obtain hl | hl := s.turnState_loadProgram bytes <;> rw [hl] <;> exact ⟨hi, hk⟩
  | reset => exact ⟨fun _ => Nat.zero_le _, Nat.zero_le _⟩
  | core | decodeExecute | tick | keys | clearDirty | initFont => exact ⟨hi, hk⟩

theorem step_inv {s t : State} (h : step s = .next t) (hs : s.Inv) : t.Inv :=
  step_keeps State.Inv (fun _ _ => id) (fun _ _ => id) (fun _ _ => id) (fun _ _ hf => State.turnState_inv hf)
    (fun _ _ he => State.completed_inv he) h hs

/-! ## Stack entries and PC (R26 (b), (c)) -/

theorem State.stepInv_iff (s : State) :
    s.StepInv ↔ (∀ turn ∈ s.agenda, turn.notDirect = true) ∧ (∀ w ∈ s.stack, 2 ≤ w.toNat ∧ w.toNat ≤ 0x1000) ∧
      s.pc.toNat ≤ 0x10FE := by
  simp [State.StepInv]

/-- A fetch below 0xFFF leaves PC in 2..0x1000. -/
theorem pc_add_two_range {p : Word} (h : p.toNat < 0xFFF) : 2 ≤ (p + 2).toNat ∧ (p + 2).toNat ≤ 0x1000 := by
  rw [BitVec.toNat_add]
  show 2 ≤ (p.toNat + 2) % 65536 ∧ (p.toNat + 2) % 65536 ≤ 0x1000
  omega

/-- R26 (b): what CALL pushes right after a fetch is in range, and RET only removes an entry. -/
theorem State.completed_stack_range {i : Instr} {s : State} (hp : 2 ≤ s.pc.toNat ∧ s.pc.toNat ≤ 0x1000)
    (h : ∀ w ∈ s.stack, 2 ≤ w.toNat ∧ w.toNat ≤ 0x1000) :
    ∀ w ∈ (s.completed i).stack, 2 ≤ w.toNat ∧ w.toNat ≤ 0x1000 := by
  by_cases hk : (s.completed i).stack = s.stack
  · rw [hk]
    exact h
  · obtain ⟨nnn, rfl, hk⟩ | ⟨rfl, hk⟩ := State.completed_stack_ne hk <;> rw [hk]
    · exact List.forall_mem_cons.mpr ⟨hp, h⟩
    · exact fun w hw => h w (List.mem_of_mem_tail hw)

/-- R26 (c): right after a fetch every way of changing PC ends at most at 0xFFF + 0xFF. -/
theorem State.completed_pc_le {i : Instr} {s : State} (he : errorOf i s = none) (hp : 2 ≤ s.pc.toNat ∧ s.pc.toNat ≤ 0x1000)
    (h : ∀ w ∈ s.stack, 2 ≤ w.toNat ∧ w.toNat ≤ 0x1000) : (s.completed i).pc.toNat ≤ 0x10FE := by
  have hskip : (s.pc + 2).toNat ≤ 0x10FE := by
    rw [BitVec.toNat_add]
    exact (Nat.mod_le ..).trans ((Nat.add_le_add_right hp.2 2).trans (by decide))
  by_cases hc : (s.completed i).pc = s.pc
  · rw [hc]
    omega
  · obtain ⟨nnn, -, hj⟩ | ⟨rfl, -⟩ | ⟨-, hj⟩ | ⟨-, hj⟩ | ⟨-, hj⟩ | ⟨nnn, -, hj⟩ | ⟨x, -, -, hj⟩ :=
      State.completed_pc_ne hc
    · have := nnn.isLt
      omega
    · have := h (s.completed .ret).pc (by rw [State.stack_of_completed_ret he]; exact List.mem_cons_self)
      omega
    · exact hj ▸ hskip
    · exact hj ▸ hskip
    · exact hj ▸ hskip
    · have := nnn.isLt
      have := (s.reg (if s.cfg.qJumpVx then addrReg nnn else 0)).isLt
      omega
    · have hsub : (s.pc - 2).toNat = s.pc.toNat - 2 := BitVec.toNat_sub_of_le (y := 2) (BitVec.le_def.mpr hp.1)
      rw [hj, hsub]
      omega

/-- Right after a fetch an instruction keeps R26 (b) and (c). -/
theorem State.completed_stepInv {i : Instr} {s : State} (he : errorOf i s = none)
    (hp : 2 ≤ s.pc.toNat ∧ s.pc.toNat ≤ 0x1000) (h : s.StepInv) : (s.completed i).StepInv := by
  obtain ⟨ha, hk, -⟩ := s.stepInv_iff.mp h
  refine (s.completed i).stepInv_iff.mpr ⟨?_, State.completed_stack_range hp hk, State.completed_pc_le he hp hk⟩
  rw [State.completed_agenda]
  exact ha

/-- PC may be set to any address that R26 (c) allows. -/
theorem State.setPc_stepInv {s : State} {w : Word} (h : s.StepInv) (hw : w.toNat ≤ 0x10FE) : (s.setPc w).StepInv :=
  ⟨h.1, h.2.1, hw⟩

theorem State.dequeued_stepInv {s : State} (h : s.StepInv) : s.dequeued.StepInv := by
  obtain ⟨ha, hk⟩ := s.stepInv_iff.mp h
  exact s.dequeued.stepInv_iff.mpr ⟨fun turn ht => ha turn (List.mem_of_mem_tail ht), hk⟩

/-- The operations of the other agents, and a `fetch` on its own, keep R26 (b) and (c). -/
theorem State.turnState_stepInv (turn : Turn) {s : State} (h : s.StepInv) : (s.turnState turn).StepInv := by
  cases turn with
  | fetch =>
    show s.fetch.2.StepInv
    obtain hk | ⟨e, hk⟩ | ⟨hp, hk⟩ := s.fetch_state <;> rw [hk]
    · exact h
    · exact h
    · exact State.setPc_stepInv h ((pc_add_two_range hp).2.trans (by decide))
  | loadProgram bytes =>
    obtain hl | hl := s.turnState_loadProgram bytes <;> rw [hl]
    · exact State.setPc_stepInv h (by decide)
    · exact h
  | reset => exact ⟨h.1, rfl, Nat.zero_le _⟩
  | core | decodeExecute | tick | keys | clearDirty | initFont => exact h

theorem step_stepInv {s t : State} (h : step s = .next t) (hs : s.StepInv) : t.StepInv := by
  have hd : s.dequeued.StepInv := State.dequeued_stepInv hs
  obtain ⟨ha, -⟩ := s.stepInv_iff.mp hs
  have hdirect : ∀ w rest, s.agenda ≠ .decodeExecute w :: rest := fun w rest hw =>
    Bool.false_ne_true (ha (.decodeExecute w) (by rw [hw]; exact List.mem_cons_self))
  have hfetched (hp : s.pc.toNat < 0xFFF) : (s.dequeued.setPc (s.pc + 2)).StepInv :=
    State.setPc_stepInv hd ((pc_add_two_range hp).2.trans (by decide))
  cases step_stepsTo h with
  | turn => exact State.turnState_stepInv _ hd
  | fetchFailed => exact hd
  | stepRaised _ hp => exact hfetched hp
  | stepCompleted _ hp i hi => exact State.completed_stepInv hi (pc_add_two_range hp) (hfetched hp)
  | directRaised hw => exact absurd hw (hdirect _ _)
  | directCompleted hw => exact absurd hw (hdirect _ _)

/-- Settles O59: each invariant is kept by the turns of the other agents and by the completed instructions, for R26 (b) and (c) by
those that run right after a fetch. -/
theorem everyStepKeepsTheInvariants : Obligations.EveryStepKeepsTheInvariants := by
  unfold Obligations.EveryStepKeepsTheInvariants
  exact fun s t h => ⟨step_inv h, step_stepInv h⟩

/-- Settles O58, field by field: the constructed memory and stack are empty, and I and PC are 0. -/
theorem resetMeetsTheInvariants : Obligations.ResetMeetsTheInvariants := by
  unfold Obligations.ResetMeetsTheInvariants
  exact ⟨⟨State.reset_mem_wf, by decide, fun _ => Nat.zero_le _, Nat.zero_le _⟩, rfl, rfl, Nat.zero_le _⟩

/-! ## The dirty flag (R18) -/

theorem State.completed_dirty_of_sets {i : Instr} {s : State} (h : i = .cls ∨ ∃ x y n, i = .drw x y n) :
    (s.completed i).dirty = true := by
  obtain rfl | ⟨x, y, n, rfl⟩ := h
  · rfl
  · rfl

/-- No instruction clears DIRTY. -/
theorem State.completed_dirty_of_dirty (i : Instr) {s : State} (h : s.dirty = true) : (s.completed i).dirty = true := by
  by_cases hd : (s.completed i).dirty = s.dirty
  · rw [hd, h]
  · exact State.completed_dirty_of_sets (State.completed_dirty_ne hd)

/-- Only the dirty-clear and reset, of the turns, write DIRTY. -/
theorem State.turnState_dirty {turn : Turn} {s : State} (hc : turn ≠ .clearDirty) (hr : turn ≠ .reset) :
    (s.turnState turn).dirty = s.dirty := by
  cases turn with
  | clearDirty => exact absurd rfl hc
  | reset => exact absurd rfl hr
  | fetch =>
    show s.fetch.2.dirty = s.dirty
    obtain hk | ⟨e, hk⟩ | ⟨-, hk⟩ := s.fetch_state <;> rw [hk] <;> rfl
  | loadProgram => exact ite_keeps State.dirty rfl rfl
  | core | decodeExecute | tick | keys | initFont => rfl

/-- A step takes DIRTY down only by the dirty-clear or a reset. -/
theorem clears_of_step_dirty {s t : State} (h : step s = .next t) (hs : s.dirty = true) (ht : t.dirty = false) :
    ∃ rest, s.agenda = .clearDirty :: rest ∨ s.agenda = .reset :: rest := by
  cases step_stepsTo h with
  | @turn turn rest ha =>
    by_contra hn
    have hc : turn ≠ .clearDirty := fun hc => hn ⟨rest, .inl (hc ▸ ha)⟩
    have hr : turn ≠ .reset := fun hr => hn ⟨rest, .inr (hr ▸ ha)⟩
    exact Bool.false_ne_true (ht.symm.trans ((State.turnState_dirty hc hr).trans hs))
  | fetchFailed | stepRaised | directRaised => exact (Bool.false_ne_true (ht.symm.trans hs)).elim
  | stepCompleted | directCompleted =>
    exact (Bool.false_ne_true (ht.symm.trans (State.completed_dirty_of_dirty _ hs))).elim

/-- Settles O22, from the arms that set DIRTY, the turns that clear it, and its passing unread through the others. -/
theorem dirtyFlagIsSetAndClearedAsStated : Obligations.DirtyFlagIsSetAndClearedAsStated := by
  unfold Obligations.DirtyFlagIsSetAndClearedAsStated
  refine ⟨fun s => ?cls, fun x y n s he => ?drw, fun s t => clears_of_step_dirty, fun s rest h => ?clear,
    fun i s d hc hd => ?unread, fun i s d h => ?overwritten⟩
  case cls => exact ⟨_, exec_cls s, rfl⟩
  case drw => exact ⟨_, exec_of_no_error he, rfl⟩
  case clear =>
    obtain h | h := h
    · exact ⟨_, step_of_cons h, rfl⟩
    · exact ⟨_, step_of_cons h, rfl⟩
  case unread =>
    exact exec_update (State.setDirty d) (fun _ => rfl) (errorOf_setDirty i s d) fun he =>
      s.completed_setDirty d hc fun x y n hi => hd x y n hi he
  case overwritten =>
    have he : errorOf i s = none := by
      obtain rfl | ⟨-, he⟩ := h
      · rfl
      · exact he
    show exec i (s.setDirty d) = exec i s
    rw [exec_of_no_error he, exec_of_no_error ((errorOf_setDirty i s d).trans he),
      s.completed_setDirty_of_sets d (h.imp_right And.left)]

end Sys2Proof.Machine
end

section
/-! Reset (spec/10_state.md R25, spec/40_step_and_host_ops.md R81). -/

namespace Sys2Proof.Machine

/-- The values of R25, by which reset is recognised whatever the parameters, the inputs and the model's own fields. -/
def State.IsReset (t : State) : Prop :=
  (∀ k, t.reg k = 0) ∧ t.index = 0 ∧ t.pc = 0 ∧ t.stack = [] ∧ t.dt = 0 ∧ t.st = 0 ∧
    (∀ py px, t.pixel py px = false) ∧ t.dirty = false ∧ (∀ a, t.memRead a = 0) ∧ t.err = none

theorem State.construct_isReset (cfg : Config) (keys : BitVec 16) : (State.construct cfg keys).IsReset := by
  refine ⟨fun k => ?_, rfl, rfl, rfl, rfl, rfl, fun py px => ?_, rfl, fun _ => rfl, rfl⟩
  · simp [State.construct, State.reg]
  · simp [State.construct, State.pixel]

theorem State.hostReset_isReset (s : State) : s.hostReset.IsReset := State.construct_isReset s.cfg s.keys

/-- A reset of the host with the rest of the agenda waiting. -/
theorem step_reset {s : State} {rest : List Turn} (h : s.agenda = .reset :: rest) :
    step s = .next (s.setAgenda rest).hostReset := step_of_cons h

/-- Settles O56: both kinds of reset construct the machine anew. -/
theorem resetLeavesTheConstructedState : Obligations.ResetLeavesTheConstructedState := by
  unfold Obligations.ResetLeavesTheConstructedState
  refine ⟨?_, fun s rest h => ⟨_, step_reset h, rfl, rfl, rfl, rfl⟩⟩
  rintro t (rfl | ⟨s, rest, ha, hs⟩)
  · exact State.construct_isReset defaultConfig 0
  · rw [step_reset ha] at hs
    cases hs
    exact State.hostReset_isReset _

end Sys2Proof.Machine
end

section
/-! Instruction fetch against memory (spec/20_memory.md R42, R46, R51). -/

namespace Sys2Proof.Machine

/-! ## The two cases of a fetch in a running machine -/

/-- R42, R84: below 0xFFF a fetch answers the word at PC and advances PC. -/
theorem State.fetch_of_lt {s : State} (he : s.err = none) (hp : s.pc.toNat < 0xFFF) :
    s.fetch = (some s.wordAtPc, s.setPc (s.pc + 2)) := by
  obtain ⟨hn, -⟩ | ⟨-, hge, -⟩ | ⟨-, -, hf⟩ := s.fetch_cases
  · exact absurd he hn
  · omega
  · exact hf

/-- R46: from 0xFFF on a fetch answers no word and raises OutOfBounds with PC. -/
theorem State.fetch_of_ge {s : State} (he : s.err = none) (hp : 0xFFF ≤ s.pc.toNat) :
    s.fetch = (none, s.setErr (some (.outOfBounds s.pc))) := by
  obtain ⟨hn, -⟩ | ⟨-, -, hf⟩ | ⟨-, hlt, -⟩ := s.fetch_cases
  · exact absurd he hn
  · exact hf
  · omega

/-- The advance of a fetch does not wrap. -/
theorem pc_add_two_toNat {p : Word} (h : p.toNat < 0xFFF) : (p + 2).toNat = p.toNat + 2 :=
  BitVec.toNat_add_of_lt (y := 2) (show p.toNat + 2 < 65536 by omega)

/-- Settles O6: the fetched word is the two bytes appended, and the number of an append is its upper part shifted. -/
theorem fetchReadsBigEndian : Obligations.FetchReadsBigEndian := by
  unfold Obligations.FetchReadsBigEndian
  intro s he hp
  have hlt : s.pc.toNat < 0xFFF := by omega
  have hw : s.wordAtPc = s.memRead s.pc.toNat ++ s.memRead (s.pc.toNat + 1) := wordOfBytes_eq_append ..
  refine ⟨_, _, State.fetch_of_lt he hlt, hw, ?_, pc_add_two_toNat hlt, rfl⟩
  rw [hw]
  exact BitVec.toNat_append ..

/-- Settles O7, from the two cases of a fetch. -/
theorem fetchFailsFromTheLastByte : Obligations.FetchFailsFromTheLastByte := by
  unfold Obligations.FetchFailsFromTheLastByte
  intro s he
  constructor
  · intro hp
    exact ⟨_, _, State.fetch_of_lt he (by omega), he⟩
  · intro hp
    exact ⟨_, State.fetch_of_ge he hp, rfl⟩

/-! ## A fetch of what a block store wrote -/

/-- R45: a block store within memory raises nothing. -/
theorem errorOf_ldStore_of_le {x : Fin 16} {s : State} (h : s.index.toNat + x.val ≤ 0xFFF) : errorOf (.ldStore x) s = none :=
  if_neg (by omega)

/-- R162: after a block store within memory the byte at I + k is V[k], for every k up to x. -/
theorem State.memRead_completed_ldStore {x k : Fin 16} {s : State} (hm : s.mem.wf = true) (h : s.index.toNat + x.val ≤ 0xFFF)
    (hk : k ≤ x) : (s.completed (.ldStore x)).memRead (s.index.toNat + k.val) = s.reg k := by
  have hkx : k.val ≤ x.val := hk
  have hlen : (s.firstRegs x).length = x.val + 1 := s.firstRegs_length x
  calc (s.memWriteBytes s.index.toNat (s.firstRegs x)).memRead (s.index.toNat + k.val)
      = (s.firstRegs x).getD (s.index.toNat + k.val - s.index.toNat) 0 := by
        rw [State.memRead_memWriteBytes _ _ _ s hm (by omega), if_pos (by omega)]
    _ = (s.firstRegs x).getD k.val 0 := by rw [Nat.add_sub_cancel_left]
    _ = s.reg k := State.firstRegs_getD x s k hk

/-- R51: a block store at PC leaves V[0] and V[1] as the word at PC. -/
theorem State.wordAtPc_completed_ldStore {x : Fin 16} {s : State} (hm : s.mem.wf = true) (hx : 1 ≤ x.val)
    (hi : s.index = s.pc) (h : s.index.toNat + x.val ≤ 0xFFF) :
    (s.completed (.ldStore x)).wordAtPc = wordOfBytes (s.reg 0) (s.reg 1) := by
  have h0 := State.memRead_completed_ldStore (k := 0) hm h (Fin.zero_le x)
  have h1 := State.memRead_completed_ldStore (k := 1) hm h hx
  rw [hi] at h0 h1
  exact congrArg₂ wordOfBytes h0 h1

/-- Settles O51: the store completes, leaves PC, and what it wrote is the word at PC. -/
theorem storedCodeIsFetched : Obligations.StoredCodeIsFetched := by
  unfold Obligations.StoredCodeIsFetched
  intro x s hm he hx hi h
  have hp : s.pc.toNat < 0xFFF := by
    rw [← hi]
    omega
  have hf := State.fetch_of_lt (s := s.completed (.ldStore x)) he hp
  rw [State.wordAtPc_completed_ldStore hm hx hi h] at hf
  exact ⟨_, _, exec_of_no_error (errorOf_ldStore_of_le h), hf⟩

end Sys2Proof.Machine
end

section
/-! Encoding (spec/30_encoding.md R61 to R74): decoder, encoder and table rows agree on all words. -/

namespace Sys2Proof

/-! ## The fields of the words of the formats -/

theorem fieldOp_lt (w : Word) : fieldOp w < 16 := (w.extractLsb' 12 4).isLt

theorem fieldN_lt (w : Word) : fieldN w < 16 := (w.extractLsb' 0 4).isLt

@[simp] theorem fieldOp_formNNN (op : Nat) (nnn : BitVec 12) (h : op < 16) : fieldOp (formNNN op nnn) = op := by
  have := nnn.isLt
  rw [fieldOp_eq, formNNN_toNat op nnn h]
  omega

@[simp] theorem fieldNnn_formNNN (op : Nat) (nnn : BitVec 12) (h : op < 16) : fieldNnn (formNNN op nnn) = nnn := by
  have := nnn.isLt
  apply BitVec.eq_of_toNat_eq
  rw [fieldNnn_toNat, formNNN_toNat op nnn h]
  omega

@[simp] theorem fieldOp_formXNN (op : Nat) (x : Fin 16) (nn : Byte) (h : op < 16) : fieldOp (formXNN op x nn) = op := by
  have := nn.isLt
  rw [fieldOp_eq, formXNN_toNat op x nn h]
  omega

@[simp] theorem fieldX_formXNN (op : Nat) (x : Fin 16) (nn : Byte) (h : op < 16) : fieldX (formXNN op x nn) = x := by
  have := nn.isLt
  apply Fin.ext
  rw [fieldX_val, formXNN_toNat op x nn h]
  omega

@[simp] theorem fieldNn_formXNN (op : Nat) (x : Fin 16) (nn : Byte) (h : op < 16) : fieldNn (formXNN op x nn) = nn := by
  have := nn.isLt
  apply BitVec.eq_of_toNat_eq
  rw [fieldNn_toNat, formXNN_toNat op x nn h]
  omega

@[simp] theorem fieldOp_formXYN (op : Nat) (x y : Fin 16) (n : Nat) (h : op < 16) : fieldOp (formXYN op x y n) = op := by
  rw [fieldOp_eq, formXYN_toNat op x y n h]
  omega

@[simp] theorem fieldX_formXYN (op : Nat) (x y : Fin 16) (n : Nat) (h : op < 16) : fieldX (formXYN op x y n) = x := by
  apply Fin.ext
  rw [fieldX_val, formXYN_toNat op x y n h]
  omega

@[simp] theorem fieldY_formXYN (op : Nat) (x y : Fin 16) (n : Nat) (h : op < 16) : fieldY (formXYN op x y n) = y := by
  apply Fin.ext
  rw [fieldY_val, formXYN_toNat op x y n h]
  omega

@[simp] theorem fieldN_formXYN (op : Nat) (x y : Fin 16) (n : Nat) (h : op < 16) : fieldN (formXYN op x y n) = n % 16 := by
  rw [fieldN_eq, formXYN_toNat op x y n h]
  omega

/-! ## A word is its fields put together -/

theorem formNNN_fields {w : Word} {op : Nat} (hop : fieldOp w = op) : formNNN op (fieldNnn w) = w := by
  apply BitVec.eq_of_toNat_eq
  rw [formNNN_toNat _ _ (hop ▸ fieldOp_lt w), ← hop, fieldOp_eq, fieldNnn_toNat]
  omega

theorem formXNN_fields {w : Word} {op : Nat} (hop : fieldOp w = op) : formXNN op (fieldX w) (fieldNn w) = w := by
  apply BitVec.eq_of_toNat_eq
  rw [formXNN_toNat _ _ _ (hop ▸ fieldOp_lt w), ← hop, fieldOp_eq, fieldX_val, fieldNn_toNat]
  omega

theorem formXYN_fields {w : Word} {op n : Nat} (hop : fieldOp w = op) (hn : fieldN w = n) :
    formXYN op (fieldX w) (fieldY w) n = w := by
  apply BitVec.eq_of_toNat_eq
  rw [formXYN_toNat _ _ _ _ (hop ▸ fieldOp_lt w), ← hop, ← hn, fieldOp_eq, fieldX_val, fieldY_val, fieldN_eq]
  omega

/-- Format X: the byte is the selector. -/
theorem formXNN_selector {w : Word} {op : Nat} {nn : Byte} (hop : fieldOp w = op) (hnn : (fieldNn w).toNat = nn.toNat) :
    formXNN op (fieldX w) nn = w := by
  rw [← BitVec.eq_of_toNat_eq hnn]
  exact formXNN_fields hop

/-- R42: a word is the two bytes it is stored as. -/
theorem wordOfBytes_extract (w : Word) : wordOfBytes (w.extractLsb' 8 8) (w.extractLsb' 0 8) = w := by
  have := w.isLt
  apply BitVec.eq_of_toNat_eq
  rw [wordOfBytes_toNat, BitVec.extractLsb'_toNat, BitVec.extractLsb'_toNat, Nat.shiftRight_eq_div_pow]
  omega

/-! ## Encode, then decode -/

/-- R73, R74: the fields of an encoded word are the operands, format by format. -/
theorem decode_encode {i : Instr} (h : i.wellFormed = true) : decode (encode i) = .ok i := by
  cases i with
  | cls | ret => decide
  | jp nnn | call nnn | jpV0 nnn | ldI nnn => simp [encode, decode]
  | seImm x nn | sneImm x nn | ldImm x nn | addImm x nn | rnd x nn => simp [encode, decode]
  | seReg x y | sneReg x y => simp [encode, decode]
  | ldReg x y | orReg x y | andReg x y | xorReg x y | addReg x y | subReg x y | shr x y | subn x y | shl x y =>
    simp [encode, decode, decodeAlu]
  | skp x | sknp x => simp [encode, decode, decodeKey]
  | addI x | ldKey x | ldFromDt x | ldDt x | ldSt x | ldB x | ldStore x | ldLoad x | ldF x =>
    simp [encode, decode, decodeMisc]
  | drw x y n =>
    have hn : n ≤ 15 := of_decide_eq_true h
    have hmod : n % 16 = n := Nat.mod_eq_of_lt (by omega)
    simp [encode, decode, hmod]

theorem decodeBytes_encodeBytes {i : Instr} (h : i.wellFormed = true) (rest : List Byte) :
    decodeBytes (encodeBytes i ++ rest) = .ok (i, rest) := by
  simp [encodeBytes, decodeBytes, wordOfBytes_extract, decode_encode h]

/-- Settles O1, on words and on bytes. -/
theorem decodeOfEncode : Obligations.DecodeOfEncode := by
  unfold Obligations.DecodeOfEncode
  exact fun _ h => ⟨decode_encode h, decodeBytes_encodeBytes h⟩

/-! ## Decode, then encode -/

/-- `i` is a well-formed instruction whose word is `w`. -/
def Instr.HasWord (i : Instr) (w : Word) : Prop := i.wellFormed = true ∧ encode i = w

theorem decodeSys_hasWord {w : Word} {i : Instr} (h : decodeSys w = .ok i) : i.HasWord w := by
  unfold decodeSys at h
  split_ifs at h with hcls hret <;> cases h
  · exact ⟨rfl, hcls.symm⟩
  · exact ⟨rfl, hret.symm⟩

theorem decodeAlu_hasWord {w : Word} {i : Instr} (hop : fieldOp w = 0x8) (h : decodeAlu w = .ok i) : i.HasWord w := by
  unfold decodeAlu at h
  split at h <;> cases h <;> exact ⟨rfl, formXYN_fields hop ‹_›⟩

theorem decodeKey_hasWord {w : Word} {i : Instr} (hop : fieldOp w = 0xE) (h : decodeKey w = .ok i) : i.HasWord w := by
  unfold decodeKey at h
  split at h <;> cases h <;> exact ⟨rfl, formXNN_selector hop ‹_›⟩

theorem decodeMisc_hasWord {w : Word} {i : Instr} (hop : fieldOp w = 0xF) (h : decodeMisc w = .ok i) : i.HasWord w := by
  unfold decodeMisc at h
  split at h <;> cases h <;> exact ⟨rfl, formXNN_selector hop ‹_›⟩

/-- R64, R73: the arms are grouped by the format of their instructions; `op` = 0, 8, E and F go through their groups. -/
theorem decode_hasWord {w : Word} {i : Instr} (h : decode w = .ok i) : i.HasWord w := by
  unfold decode at h
  split at h
  case h_1 => exact decodeSys_hasWord h
  case h_2 hop | h_3 hop | h_11 hop | h_12 hop =>
    cases h
    exact ⟨rfl, formNNN_fields hop⟩
  case h_4 hop | h_5 hop | h_7 hop | h_8 hop | h_13 hop =>
    cases h
    exact ⟨rfl, formXNN_fields hop⟩
  case h_6 hop | h_10 hop =>
    split_ifs at h with hn
    cases h
    exact ⟨rfl, formXYN_fields hop hn⟩
  case h_14 hop =>
    cases h
    exact ⟨decide_eq_true (Nat.le_of_lt_succ (fieldN_lt w)), formXYN_fields hop rfl⟩
  case h_9 hop => exact decodeAlu_hasWord hop h
  case h_15 hop => exact decodeKey_hasWord hop h
  case h_16 =>
    have hop : fieldOp w = 0xF := by grind [fieldOp_lt]
    exact decodeMisc_hasWord hop h

/-- Settles O2: every arm of the decoder reads the fields that its instruction's format puts together. -/
theorem encodeOfDecode : Obligations.EncodeOfDecode := by
  unfold Obligations.EncodeOfDecode
  exact fun _ _ => decode_hasWord

/-! ## The rows of the table -/

theorem tableRow_accepts_encode : ∀ i : Instr, (tableRow i).accepts (encode i) = true
  | .jp nnn => Laws.TableRow.jp nnn
  | .call nnn => Laws.TableRow.call nnn
  | .ret => Laws.TableRow.ret
  | .seImm x nn => Laws.TableRow.seImm x nn
  | .sneImm x nn => Laws.TableRow.sneImm x nn
  | .seReg x y => Laws.TableRow.seReg x y
  | .sneReg x y => Laws.TableRow.sneReg x y
  | .jpV0 nnn => Laws.TableRow.jpV0 nnn
  | .ldImm x nn => Laws.TableRow.ldImm x nn
  | .addImm x nn => Laws.TableRow.addImm x nn
  | .ldReg x y => Laws.TableRow.ldReg x y
  | .orReg x y => Laws.TableRow.orReg x y
  | .andReg x y => Laws.TableRow.andReg x y
  | .xorReg x y => Laws.TableRow.xorReg x y
  | .addReg x y => Laws.TableRow.addReg x y
  | .subReg x y => Laws.TableRow.subReg x y
  | .shr x y => Laws.TableRow.shr x y
  | .subn x y => Laws.TableRow.subn x y
  | .shl x y => Laws.TableRow.shl x y
  | .ldI nnn => Laws.TableRow.ldI nnn
  | .addI x => Laws.TableRow.addI x
  | .rnd x nn => Laws.TableRow.rnd x nn
  | .drw x y n => Laws.TableRow.drw x y n
  | .cls => Laws.TableRow.cls
  | .skp x => Laws.TableRow.skp x
  | .sknp x => Laws.TableRow.sknp x
  | .ldKey x => Laws.TableRow.ldKey x
  | .ldFromDt x => Laws.TableRow.ldFromDt x
  | .ldDt x => Laws.TableRow.ldDt x
  | .ldSt x => Laws.TableRow.ldSt x
  | .ldB x => Laws.TableRow.ldB x
  | .ldStore x => Laws.TableRow.ldStore x
  | .ldLoad x => Laws.TableRow.ldLoad x
  | .ldF x => Laws.TableRow.ldF x

theorem fieldOp_of_accepts_F000 {p w : Word} (h : (OpcodeRow.mk p 0xF000).accepts w = true) :
    fieldOp w = p.toNat / 0x1000 := by
  have hp : (w &&& 0xF000#16).toNat = p.toNat := (OpcodeRow.accepts_iff _ w).1 h
  rw [and_F000] at hp
  rw [fieldOp_eq]
  omega

theorem fields_of_accepts_F00F {p w : Word} (h : (OpcodeRow.mk p 0xF00F).accepts w = true) :
    fieldOp w = p.toNat / 0x1000 ∧ fieldN w = p.toNat % 0x10 := by
  have hp : (w &&& 0xF00F#16).toNat = p.toNat := (OpcodeRow.accepts_iff _ w).1 h
  rw [and_F00F] at hp
  rw [fieldOp_eq, fieldN_eq]
  omega

theorem fields_of_accepts_F0FF {p w : Word} (h : (OpcodeRow.mk p 0xF0FF).accepts w = true) :
    fieldOp w = p.toNat / 0x1000 ∧ (fieldNn w).toNat = p.toNat % 0x100 := by
  have hp : (w &&& 0xF0FF#16).toNat = p.toNat := (OpcodeRow.accepts_iff _ w).1 h
  rw [and_F0FF] at hp
  rw [fieldOp_eq, fieldNn_toNat]
  omega

theorem eq_of_accepts_FFFF {p w : Word} (h : (OpcodeRow.mk p 0xFFFF).accepts w = true) : w = p :=
  (and_FFFF w).symm.trans (beq_iff_eq.1 h)

/-- The fields that a row's mask fixes are those by which the decoder chooses its arm. -/
theorem decode_of_accepts {w : Word} {i : Instr} (h : (tableRow i).accepts w = true) :
    ∃ j, decode w = .ok j ∧ tableRow j = tableRow i := by
  cases i with
  | cls => exact ⟨.cls, eq_of_accepts_FFFF h ▸ rfl, rfl⟩
  | ret => exact ⟨.ret, eq_of_accepts_FFFF h ▸ rfl, rfl⟩
  | jp _ | call _ | jpV0 _ | ldI _ | seImm _ _ | sneImm _ _ | ldImm _ _ | addImm _ _ | rnd _ _ | drw _ _ _ =>
    have hop := fieldOp_of_accepts_F000 h
    simp [decode, hop, tableRow]
  | seReg _ _ | sneReg _ _ | ldReg _ _ | orReg _ _ | andReg _ _ | xorReg _ _ | addReg _ _ | subReg _ _ | shr _ _ | subn _ _
  | shl _ _ =>
    obtain ⟨hop, hn⟩ := fields_of_accepts_F00F h
    simp [decode, decodeAlu, hop, hn, tableRow]
  | skp _ | sknp _ | addI _ | ldKey _ | ldFromDt _ | ldDt _ | ldSt _ | ldB _ | ldStore _ | ldLoad _ | ldF _ =>
    obtain ⟨hop, hnn⟩ := fields_of_accepts_F0FF h
    simp [decode, decodeKey, decodeMisc, hop, hnn, tableRow]

/-- Settles O3: a decoded word is its instruction's word, which lies in the instruction's row; the fields a row fixes choose the
decoder's arm. -/
theorem decodeAgreesWithTheTableRows : Obligations.DecodeAgreesWithTheTableRows := by
  unfold Obligations.DecodeAgreesWithTheTableRows
  refine ⟨fun w i h => ?_, fun w i => decode_of_accepts⟩
  obtain ⟨-, hw⟩ := decode_hasWord h
  exact hw ▸ tableRow_accepts_encode i

/-! ## The unknown words -/

/-- R65: every word of the group but those of CLS and RET. -/
theorem decodeSys_error_iff (w : Word) (f : FailingField) :
    decodeSys w = .error f ↔ w ≠ 0x00E0 ∧ w ≠ 0x00EE ∧ f = .nnn := by
  unfold decodeSys
  split_ifs with hcls hret <;> grind

/-- R66: the selectors that none of the nine arms names. -/
theorem decodeAlu_error_iff (w : Word) (f : FailingField) :
    decodeAlu w = .error f ↔ fieldN w ∈ [0x8, 0x9, 0xA, 0xB, 0xC, 0xD, 0xF] ∧ f = .n := by
  have hlt := fieldN_lt w
  simp only [List.mem_cons, List.not_mem_nil, or_false]
  unfold decodeAlu
  split <;> grind

/-- R67: every selector but those of SKP and SKNP. -/
theorem decodeKey_error_iff (w : Word) (f : FailingField) :
    decodeKey w = .error f ↔ (fieldNn w).toNat ∉ [0x9E, 0xA1] ∧ f = .nn := by
  simp only [List.mem_cons, List.not_mem_nil, or_false]
  unfold decodeKey
  split <;> grind

/-- R68: every selector but those of the nine arms. -/
theorem decodeMisc_error_iff (w : Word) (f : FailingField) :
    decodeMisc w = .error f ↔ (fieldNn w).toNat ∉ [0x07, 0x0A, 0x15, 0x18, 0x1E, 0x29, 0x33, 0x55, 0x65] ∧ f = .nn := by
  simp only [List.mem_cons, List.not_mem_nil, or_false]
  unfold decodeMisc
  split <;> grind

/-- Settles O4, group by group: `op` alone decides whether the rest of the word selects. -/
theorem unknownWordsNameTheirField : Obligations.UnknownWordsNameTheirField := by
  unfold Obligations.UnknownWordsNameTheirField
  intro w f
  unfold decode
  split
  case h_1 hop => simp [decodeSys_error_iff, hop]
  case h_6 hop | h_10 hop => split_ifs with hn <;> simp [hop, hn, eq_comm]
  case h_9 hop => simp [decodeAlu_error_iff, hop]
  case h_15 hop => simp [decodeKey_error_iff, hop]
  case h_16 =>
    have hop : fieldOp w = 0xF := by grind [fieldOp_lt]
    simp [decodeMisc_error_iff, hop]
  all_goals simp [*]

/-! ## Sample words -/

/-- Settles O5 by evaluating the decoder. -/
theorem sampleWordsDecode : Obligations.SampleWordsDecode := by
  unfold Obligations.SampleWordsDecode
  decide

end Sys2Proof
end

section
/-! What a step does with each operation that can come next, and what a halted core still allows (spec/40_step_and_host_ops.md R80,
R84 to R86, R92, R93). -/

namespace Sys2Proof.Machine

/-! ## `decode_execute` and the core's Step of a running machine -/

theorem State.decodeExecute_of_ok {s : State} {w : Word} {i : Instr} (he : s.err = none) (hd : decode w = .ok i) :
    s.decodeExecute w = exec i s := by
  rw [State.decodeExecute, he, hd]

theorem State.decodeExecute_of_error {s : State} {w : Word} {f : FailingField} (he : s.err = none) (hd : decode w = .error f) :
    s.decodeExecute w = s.raise (.unknownOpcode w f) := by
  rw [State.decodeExecute, he, hd]

/-- Settles O11, from the two answers of the decoder. -/
theorem decodeExecuteOnAnyWord : Obligations.DecodeExecuteOnAnyWord := by
  unfold Obligations.DecodeExecuteOnAnyWord
  exact fun w s he => ⟨fun i => State.decodeExecute_of_ok he, fun f => State.decodeExecute_of_error he⟩

/-- A fetch that answers a word leaves ERR clear, as it found it (R84, R93). -/
theorem State.err_of_fetch_some {s t : State} {w : Word} (h : s.fetch = (some w, t)) : s.err = none ∧ t.err = none := by
  obtain ⟨-, hf⟩ | ⟨-, -, hf⟩ | ⟨he, -, hf⟩ := s.fetch_cases <;> rw [hf] at h <;> cases h
  exact ⟨he, he⟩

/-- R86: a Step is a fetch and then `decode_execute` of the word fetched. -/
theorem State.coreStep_of_fetch {s t : State} {w : Word} (h : s.fetch = (some w, t)) : s.coreStep = t.decodeExecute w := by
  obtain ⟨he, -⟩ := State.err_of_fetch_some h
  rw [State.coreStep, he, h]

theorem State.coreStep_of_decode {s : State} {i : Instr} (he : s.err = none) (hp : s.pc.toNat < 0xFFF)
    (hd : decode s.wordAtPc = .ok i) : s.coreStep = exec i (s.setPc (s.pc + 2)) := by
  rw [State.coreStep_of_fetch (State.fetch_of_lt he hp)]
  exact State.decodeExecute_of_ok he hd

/-! ## The step, by the operation that comes next -/

/-- With nothing waiting, a step is a Step of the core. -/
theorem step_of_nil {s : State} (h : s.agenda = []) : step s = s.coreStep := by
  rw [step, State.nextTurn, h]

theorem State.unlessHalted_of_running {s : State} (he : s.err = none) (r : Result) : s.unlessHalted r = r := by
  simp [State.unlessHalted, he]

theorem step_of_core {s : State} {rest : List Turn} (h : s.agenda = .core :: rest) (he : s.err = none) :
    step s = (s.setAgenda rest).coreStep :=
  (step_of_cons h).trans (State.unlessHalted_of_running (s := s.setAgenda rest) he _)

theorem step_of_decodeExecute {s : State} {w : Word} {rest : List Turn} (h : s.agenda = .decodeExecute w :: rest)
    (he : s.err = none) : step s = (s.setAgenda rest).decodeExecute w :=
  (step_of_cons h).trans (State.unlessHalted_of_running (s := s.setAgenda rest) he _)

theorem step_of_fetch {s : State} {rest : List Turn} (h : s.agenda = .fetch :: rest) :
    step s = .next (s.fetch.2.setAgenda rest) := by
  rw [step_of_cons h, State.runTurn, State.fetch_setAgenda]

/-- A load that is not refused is the step's next state (R83). -/
theorem step_of_loadProgram_ok {s t : State} {bytes : List Byte} {rest : List Turn} (h : s.agenda = .loadProgram bytes :: rest)
    (hl : s.loadProgram bytes = .ok t) : step s = .next (t.setAgenda rest) := by
  obtain ⟨hlen, rfl⟩ := (s.loadProgram_ok bytes t).mp hl
  have hok : (s.setAgenda rest).loadProgram bytes = .ok _ := (State.loadProgram_ok ..).mpr ⟨hlen, rfl⟩
  rw [step_of_cons h, State.runTurn, hok]
  rfl

/-- A refused load changes nothing (R198). -/
theorem step_of_loadProgram_error {s : State} {e : Error} {bytes : List Byte} {rest : List Turn}
    (h : s.agenda = .loadProgram bytes :: rest) (hl : s.loadProgram bytes = .error e) : step s = .next (s.setAgenda rest) := by
  have herr : (s.setAgenda rest).loadProgram bytes = .error e := by
    unfold State.loadProgram at hl ⊢
    split_ifs at hl ⊢
    exact hl
  rw [step_of_cons h, State.runTurn, herr]

/-- A `fetch` and then `decode_execute` of the word it returned, each a step of its own, do what a Step does (R86). -/
theorem step_fetch_then_decodeExecute {s t : State} {w : Word} {rest : List Turn}
    (h : s.agenda = .fetch :: .decodeExecute w :: rest) (hf : s.fetch = (some w, t)) :
    ∃ u, step s = .next u ∧ step u = step (s.setAgenda (.core :: rest)) := by
  obtain ⟨hs, ht⟩ := State.err_of_fetch_some hf
  have hf' : (s.setAgenda rest).fetch = (some w, t.setAgenda rest) := by rw [State.fetch_setAgenda, hf]
  refine ⟨t.setAgenda (.decodeExecute w :: rest), ?_, ?_⟩
  · rw [step_of_fetch h, hf]
  · calc step (t.setAgenda (.decodeExecute w :: rest))
        = (t.setAgenda rest).decodeExecute w := step_of_decodeExecute rfl ht
      _ = (s.setAgenda rest).coreStep := (State.coreStep_of_fetch hf').symm
      _ = step (s.setAgenda (.core :: rest)) := (step_of_core (s := s.setAgenda (.core :: rest)) rfl hs).symm

/-- Settles O52, operation by operation. -/
theorem stepRunsTheNextOperation : Obligations.StepRunsTheNextOperation := by
  unfold Obligations.StepRunsTheNextOperation
  intro s rest
  refine ⟨?tick, fun k => ?keys, ?clearDirty, ?fetch, fun w => ?decodeExecute, fun w t => ?fetchThenExecute, ?initFont,
    fun bytes t => ?loaded, fun bytes e => ?refused, ?reset⟩
  case tick | keys | clearDirty | initFont => exact step_of_cons
  case fetch => exact step_of_fetch
  case decodeExecute => exact step_of_decodeExecute
  case fetchThenExecute => exact step_fetch_then_decodeExecute
  case loaded => exact step_of_loadProgram_ok
  case refused => exact step_of_loadProgram_error
  case reset => exact step_reset

/-- Settles O8: both ways the core comes to step end in its Step, which runs the decoded instruction. -/
theorem stepRunsDecodedInstruction : Obligations.StepRunsDecodedInstruction := by
  unfold Obligations.StepRunsDecodedInstruction
  intro s i he hp hd
  have hlt : s.pc.toNat < 0xFFF := by omega
  refine ⟨fun ha => ?_, fun rest ha => ?_⟩
  · rw [step_of_nil ha]
    exact State.coreStep_of_decode he hlt hd
  · rw [step_of_core ha he]
    exact State.coreStep_of_decode (s := s.setAgenda rest) he hlt hd

/-! ## A halted machine -/

theorem State.decodeExecute_halted {s : State} {e : Error} (w : Word) (h : s.err = some e) :
    s.decodeExecute w = .fault (.halted e) := by
  rw [State.decodeExecute, h]

/-- With ERR latched, every operation that is waiting runs as one that executes nothing (R93). -/
theorem step_halted {s : State} {turn : Turn} {rest : List Turn} (h : s.agenda = turn :: rest) (he : s.err ≠ none) :
    step s = .next ((s.setAgenda rest).turnState turn) :=
  (step_of_cons h).trans ((State.runTurn_next ..).mpr (.inr (.inr ⟨.inr he, rfl⟩)))

/-- Settles O10: only the core could act, or its operation passes. -/
theorem haltedCoreHasNoStep : Obligations.HaltedCoreHasNoStep := by
  unfold Obligations.HaltedCoreHasNoStep
  intro s e h
  have he : s.err ≠ none := h ▸ Option.some_ne_none e
  refine ⟨fun ha => ?_, fun w => State.decodeExecute_halted w h, s.fetch_halted he, fun rest ha => ?_⟩
  · rw [step_of_nil ha, s.coreStep_halted e h]
  · obtain ha | ha | ⟨w, ha⟩ := ha <;> rw [step_halted ha he]
    · rfl
    · rw [State.turnState, State.fetch_halted (s.setAgenda rest) he]
      rfl
    · rfl

/-- With ERR latched, reset alone of the operations writes ERR, a register, I, the stack or the display (R93, R189, R197). -/
theorem State.turnState_halted {turn : Turn} {s : State} (he : s.err ≠ none) (hr : turn ≠ .reset) :
    (s.turnState turn).err = s.err ∧ (s.turnState turn).v = s.v ∧ (s.turnState turn).index = s.index ∧
      (s.turnState turn).stack = s.stack ∧ (s.turnState turn).fb = s.fb ∧ (s.turnState turn).cfg = s.cfg := by
  cases turn with
  | reset => exact absurd rfl hr
  | fetch =>
    rw [State.turnState, s.fetch_halted he]
    exact ⟨rfl, rfl, rfl, rfl, rfl, rfl⟩
  | loadProgram bytes =>
    obtain hl | hl := s.turnState_loadProgram bytes <;> rw [hl] <;> exact ⟨rfl, rfl, rfl, rfl, rfl, rfl⟩
  | core | decodeExecute | tick | keys | clearDirty | initFont => exact ⟨rfl, rfl, rfl, rfl, rfl, rfl⟩

/-- Settles O12: with nothing waiting there is no next state, and of the operations only reset writes these parts. -/
theorem onlyResetEndsAHalt : Obligations.OnlyResetEndsAHalt := by
  unfold Obligations.OnlyResetEndsAHalt
  intro s t e h hs
  have he : s.err ≠ none := h ▸ Option.some_ne_none e
  cases ha : s.agenda with
  | nil =>
    rw [step_of_nil ha, s.coreStep_halted e h] at hs
    cases hs
  | cons turn rest =>
    rw [step_halted ha he] at hs
    cases hs
    by_cases hr : turn = .reset
    · exact .inl ⟨rest, by rw [hr]⟩
    · obtain ⟨herr, hkept⟩ := State.turnState_halted (s := s.setAgenda rest) he hr
      exact .inr ⟨herr.trans h, hkept⟩

end Sys2Proof.Machine
end

section
/-! The tick and the host's writes to memory (spec/40_step_and_host_ops.md R82, R83, R87). -/

namespace Sys2Proof.Machine

/-! ## Ticks -/

/-- n ticks of one counter (R87). -/
theorem iterate_tickDown_toNat (n : Nat) (b : Byte) : (tickDown^[n] b).toNat = b.toNat - n := by
  induction n with
  | zero => rfl
  | succ n ih => rw [Function.iterate_succ_apply', tickDown_toNat, ih, Nat.sub_sub]

/-- The counters tick each on its own, and nothing else changes (R87). -/
theorem State.iterate_tickTimers (n : Nat) (s : State) :
    State.tickTimers^[n] s = (s.setDt (tickDown^[n] s.dt)).setSt (tickDown^[n] s.st) := by
  induction n generalizing s with
  | zero => rfl
  | succ n ih =>
    rw [Function.iterate_succ_apply, ih]
    rfl

/-- Settles O45: n ticks are n ticks of each counter. -/
theorem ticksCountDownToZero : Obligations.TicksCountDownToZero := by
  unfold Obligations.TicksCountDownToZero
  intro n s
  rw [State.iterate_tickTimers]
  exact ⟨iterate_tickDown_toNat n s.dt, iterate_tickDown_toNat n s.st, rfl⟩

/-! ## Reads after a run of stores -/

/-- Inside the run the bytes stand in their order (R43, R49). -/
theorem State.memRead_memWriteBytes_inside {s : State} {a k : Nat} {bs : List Byte} (hm : s.mem.wf = true)
    (hb : a + bs.length ≤ 0x1000) (hk : k < bs.length) : (s.memWriteBytes a bs).memRead (a + k) = bs[k] := by
  rw [State.memRead_memWriteBytes _ _ _ s hm hb, if_pos (by omega), Nat.add_sub_cancel_left, List.getD_eq_getElem _ _ hk]

/-- Outside the run nothing changes (R43, R49). -/
theorem State.memRead_memWriteBytes_outside {s : State} {a b : Nat} {bs : List Byte} (hm : s.mem.wf = true)
    (hb : a + bs.length ≤ 0x1000) (ho : b < a ∨ a + bs.length ≤ b) : (s.memWriteBytes a bs).memRead b = s.memRead b := by
  rw [State.memRead_memWriteBytes _ _ _ s hm hb, if_neg (by omega)]

/-- The same run of stores again changes nothing: both memories are canonical and read alike. -/
theorem Memory.writeBytes_twice {m : Memory} {a : Nat} {bs : List Byte} (hm : m.wf = true) (hb : a + bs.length ≤ 0x1000) :
    (m.writeBytes a bs).writeBytes a bs = m.writeBytes a bs := by
  have h1 : (m.writeBytes a bs).wf = true := Memory.wf_writeBytes bs m a hm
  refine Memory.ext_of_read _ _ 0 (Memory.wf_writeBytes bs _ a h1) h1 fun b => ?_
  rw [Memory.read_writeBytes bs _ a b h1 hb, Memory.read_writeBytes bs m a b hm hb]
  split <;> rfl

/-! ## The font -/

theorem Config.fontBase_add_le {c : Config} (h : c.wellFormed = true) : c.fontBase + 80 ≤ 0x200 := of_decide_eq_true h

/-- Settles O53: the font is one run of 80 stores within memory. -/
theorem initializeWritesTheFontOnce : Obligations.InitializeWritesTheFontOnce := by
  unfold Obligations.InitializeWritesTheFontOnce
  intro s hm hc
  have hbase := Config.fontBase_add_le hc
  have hlen : s.cfg.fontGlyphs.toList.length = 80 := Vector.length_toList
  have hb : s.cfg.fontBase + s.cfg.fontGlyphs.toList.length ≤ 0x1000 := by omega
  refine ⟨fun k => ?_, fun a ha => ?_, rfl, ?_⟩
  · have hk : k.val < s.cfg.fontGlyphs.toList.length := by omega
    exact (State.memRead_memWriteBytes_inside hm hb hk).trans (Vector.getElem_toList hk)
  · exact State.memRead_memWriteBytes_outside hm hb (by omega)
  · exact congrArg s.setMem (Memory.writeBytes_twice hm hb)

/-! ## `load_program` -/

/-- Settles O54: an accepted load is one run of stores within memory, and then PC is set. -/
theorem loadProgramWritesBytesAndPc : Obligations.LoadProgramWritesBytesAndPc := by
  unfold Obligations.LoadProgramWritesBytesAndPc
  intro bytes s hm
  refine ⟨fun hlen => ?_, fun hlen => if_pos hlen⟩
  have hb : 0x200 + bytes.length ≤ 0x1000 := by omega
  exact ⟨_, (s.loadProgram_ok bytes _).mpr ⟨hlen, rfl⟩, rfl, rfl, fun k hk => State.memRead_memWriteBytes_inside hm hb hk,
    fun a ha => State.memRead_memWriteBytes_outside hm hb ha⟩

/-- The bytes of an encoded instruction stored at an address are its word there. -/
theorem State.wordAt_encodeBytes {s : State} (i : Instr) {a : Nat} (hm : s.mem.wf = true) (ha : a + 2 ≤ 0x1000) :
    wordOfBytes ((s.memWriteBytes a (encodeBytes i)).memRead a) ((s.memWriteBytes a (encodeBytes i)).memRead (a + 1)) =
      encode i := by
  have h0 := State.memRead_memWriteBytes_inside (k := 0) (bs := encodeBytes i) hm ha (by decide : 0 < 2)
  have h1 := State.memRead_memWriteBytes_inside (k := 1) (bs := encodeBytes i) hm ha (by decide : 1 < 2)
  exact (congrArg₂ wordOfBytes h0 h1).trans (wordOfBytes_extract (encode i))

/-- A loaded instruction is the word at PC (R83). -/
theorem State.wordAtPc_of_loadProgram {s t : State} {i : Instr} (hm : s.mem.wf = true)
    (h : s.loadProgram (encodeBytes i) = .ok t) : t.wordAtPc = encode i := by
  obtain ⟨-, rfl⟩ := (s.loadProgram_ok _ t).mp h
  have hpc : (0x200 : Word).toNat = 0x200 := rfl
  rw [State.wordAtPc, State.setPc_pc, hpc, State.memRead_setPc, State.memRead_setPc]
  exact State.wordAt_encodeBytes i hm (by decide)

/-- Settles O55: the word at 0x200 is the jump's, so the Step decodes and takes it. -/
theorem loadedJumpIsTaken : Obligations.LoadedJumpIsTaken := by
  unfold Obligations.LoadedJumpIsTaken
  intro nnn s hm he ha
  obtain ⟨t, hload, hpc, hframe, -⟩ := (loadProgramWritesBytesAndPc (encodeBytes (.jp nnn)) s hm).1 (show 2 ≤ 3584 by decide)
  have hte : t.err = none := by rw [hframe, he]
  have hta : t.agenda = [] := by rw [hframe, ha]
  have hp : t.pc.toNat < 0xFFF := by
    rw [hpc]
    decide
  have hd : decode t.wordAtPc = .ok (.jp nnn) := by rw [State.wordAtPc_of_loadProgram hm hload, decode_encode rfl]
  exact ⟨t, _, hload, (step_of_nil hta).trans (State.coreStep_of_decode hte hp hd), addr16_toNat nnn⟩

end Sys2Proof.Machine
end

section
/-! Control flow (spec/41_control_flow.md): jumps, the call stack and the skips. -/

namespace Sys2Proof.Machine

/-! ## JP -/

/-- Settles O24: the meaning of JP writes PC alone. -/
theorem jumpSetsPc : Obligations.JumpSetsPc := by
  unfold Obligations.JumpSetsPc
  intro nnn s
  exact ⟨_, exec_jp nnn s, addr16_toNat nnn, rfl⟩

/-! ## The call stack -/

/-- R102: below the depth. -/
theorem exec_call_of_lt {s : State} (nnn : BitVec 12) (h : s.stack.length < s.cfg.stackDepth) :
    exec (.call nnn) s = .next ((s.setStack (s.pc :: s.stack)).setPc (addr16 nnn)) :=
  (exec_call_next ..).mpr (.inr ⟨h, rfl⟩)

/-- R184: at the depth. -/
theorem exec_call_of_full {s : State} (nnn : BitVec 12) (h : s.cfg.stackDepth ≤ s.stack.length) :
    exec (.call nnn) s = .next { s with err := some .stackOverflow } :=
  (exec_call_next ..).mpr (.inl ⟨h, rfl⟩)

/-- R100. -/
theorem exec_ret_of_cons {s : State} {w : Word} {rest : List Word} (h : s.stack = w :: rest) :
    exec .ret s = .next ((s.setStack rest).setPc w) :=
  (exec_ret_next ..).mpr (.inr ⟨w, rest, h, rfl⟩)

/-- R183. -/
theorem exec_ret_of_nil {s : State} (h : s.stack = []) : exec .ret s = .next { s with err := some .stackUnderflow } :=
  (exec_ret_next ..).mpr (.inl ⟨h, rfl⟩)

/-- Settles O25: the two sides of the depth. -/
theorem callPushesReturnAddress : Obligations.CallPushesReturnAddress := by
  unfold Obligations.CallPushesReturnAddress
  intro nnn s
  exact ⟨fun h => ⟨_, exec_call_of_lt nnn h, addr16_toNat nnn, rfl, rfl⟩, exec_call_of_full nnn⟩

/-- Settles O26: a stack with a newest entry and the empty stack. -/
theorem returnPopsNewestEntry : Obligations.ReturnPopsNewestEntry := by
  unfold Obligations.ReturnPopsNewestEntry
  intro s
  exact ⟨fun w rest h => ⟨_, exec_ret_of_cons h, rfl, rfl, rfl⟩, exec_ret_of_nil⟩

/-- Settles O27: CALL leaves its return address as the newest entry, which RET pops from any state with that stack. -/
theorem callThenReturnComesBack : Obligations.CallThenReturnComesBack := by
  unfold Obligations.CallThenReturnComesBack
  intro nnn s hdepth
  obtain ⟨t, hcall, -, hstack, -⟩ := (callPushesReturnAddress nnn s).1 hdepth
  exact ⟨t, hcall, fun u hu => (returnPopsNewestEntry u).1 s.pc s.stack (hu.trans hstack)⟩

/-! ## The skips -/

/-- An instruction that skips on the condition `c` advances PC where `c` is true, keeps it where `c` is false, and writes nothing
else (R13). -/
theorem exec_skips {i : Instr} {s : State} {c : Bool} {p q : Prop} (h : exec i s = .next (s.skipIf c))
    (hp : p → c = true) (hq : q → c = false) :
    ∃ t, exec i s = .next t ∧ t = { s with pc := t.pc } ∧ (p → t.pc = s.pc + 2) ∧ (q → t.pc = s.pc) := by
  refine ⟨_, h, State.skipIf_frame c s, fun hskip => ?_, fun hstay => ?_⟩
  · rw [hp hskip]
    rfl
  · rw [hq hstay]
    rfl

/-- Settles O28: each skip's condition is its comparison. -/
theorem skipsAdvancePcOnTheirCondition : Obligations.SkipsAdvancePcOnTheirCondition := by
  unfold Obligations.SkipsAdvancePcOnTheirCondition
  intro x y nn s
  refine ⟨?_, ?_, ?_, ?_⟩
  · exact exec_skips (exec_seImm x nn s) beq_iff_eq.mpr beq_false_of_ne
  · exact exec_skips (exec_sneImm x nn s) bne_iff_ne.mpr bne_eq_false_iff_eq.mpr
  · exact exec_skips (exec_seReg x y s) beq_iff_eq.mpr beq_false_of_ne
  · exact exec_skips (exec_sneReg x y s) bne_iff_ne.mpr bne_eq_false_iff_eq.mpr

/-! ## JP V0 -/

/-- R107: the upper nibble of an address immediate. -/
theorem addrReg_val (nnn : BitVec 12) : (addrReg nnn).val = nnn.toNat / 0x100 := by
  have := nnn.isLt
  show (nnn.extractLsb' 8 4).toNat = _
  rw [BitVec.extractLsb'_toNat, Nat.shiftRight_eq_div_pow]
  omega

/-- R107, not `Q_JUMP_VX`. -/
theorem State.jumpOffset_plain {s : State} (nnn : BitVec 12) (h : s.cfg.qJumpVx = false) : s.jumpOffset nnn = s.reg 0 :=
  if_neg (by simp [h])

/-- R107, `Q_JUMP_VX`. -/
theorem State.jumpOffset_quirk {s : State} (nnn : BitVec 12) (h : s.cfg.qJumpVx = true) :
    s.jumpOffset nnn = s.reg (addrReg nnn) := if_pos h

/-- Settles O29: the sum fits PC, so it is the address plus the offset that the quirk selects. -/
theorem jumpWithOffsetAddsRegister : Obligations.JumpWithOffsetAddsRegister := by
  unfold Obligations.JumpWithOffsetAddsRegister
  intro nnn s
  have hsum := addr16_add_toNat nnn (s.jumpOffset nnn)
  refine ⟨_, exec_jpV0 nnn s, rfl, fun hq => ?_, fun hq x hx => ?_⟩
  · rwa [State.jumpOffset_plain nnn hq] at hsum ⊢
  · have hxr : addrReg nnn = x := Fin.ext ((addrReg_val nnn).trans hx.symm)
    rwa [State.jumpOffset_quirk nnn hq, hxr] at hsum ⊢

end Sys2Proof.Machine
end

section
/-! Immediate and register arithmetic (spec/42_arithmetic.md): what writing a result, and a flag after it, leaves in the registers,
and the numbers that the results and the flags are. -/

namespace Sys2Proof.Machine

/-! ## The registers after a result, and after a result with its flag -/

theorem State.reg_setReg_same (s : State) (x : Fin 16) (r : Byte) : (s.setReg x r).reg x = r :=
  (State.reg_setReg ..).trans (if_pos rfl)

theorem State.reg_setReg_of_ne (s : State) (x : Fin 16) (r : Byte) (k : Fin 16) (hk : k ≠ x) : (s.setReg x r).reg k = s.reg k :=
  (State.reg_setReg ..).trans (if_neg hk)

/-- R121: a destination other than VF keeps the result. -/
theorem State.reg_setRegFlag_dest (s : State) {x : Fin 16} (r : Byte) (f : Bool) (hx : x ≠ 15) : (s.setRegFlag x r f).reg x = r := by
  rw [State.reg_setRegFlag, if_neg hx, if_pos rfl]

/-- R121: VF holds the flag, whatever the destination. -/
theorem State.reg_setRegFlag_vf (s : State) (x : Fin 16) (r : Byte) (f : Bool) :
    (s.setRegFlag x r f).reg 15 = if f then 1 else 0 :=
  (State.reg_setRegFlag ..).trans (if_pos rfl)

theorem State.reg_setRegFlag_of_ne (s : State) (x : Fin 16) (r : Byte) (f : Bool) (k : Fin 16) (hx : k ≠ x) (hv : k ≠ 15) :
    (s.setRegFlag x r f).reg k = s.reg k := by
  rw [State.reg_setRegFlag, if_neg hv, if_neg hx]

/-! ## Immediates, copy and logic -/

/-- Settles O30: each of the two writes one register. -/
theorem immediatesWriteOnlyTheirRegister : Obligations.ImmediatesWriteOnlyTheirRegister := by
  unfold Obligations.ImmediatesWriteOnlyTheirRegister
  intro x nn s
  refine ⟨⟨_, exec_ldImm x nn s, rfl, State.reg_setReg_same .., State.reg_setReg_of_ne s x _⟩,
    _, exec_addImm x nn s, rfl, ?_, State.reg_setReg_of_ne s x _⟩
  rw [State.reg_setReg_same, BitVec.toNat_add]

/-- Settles O31: each of the four writes one register, and the logic operations act bit by bit. -/
theorem copyAndLogicWriteOnlyTheirRegister : Obligations.CopyAndLogicWriteOnlyTheirRegister := by
  unfold Obligations.CopyAndLogicWriteOnlyTheirRegister
  intro x y s
  refine ⟨⟨_, exec_ldReg x y s, rfl, State.reg_setReg_same .., State.reg_setReg_of_ne s x _⟩,
    ⟨_, exec_orReg x y s, rfl, fun b => ?_, State.reg_setReg_of_ne s x _⟩,
    ⟨_, exec_andReg x y s, rfl, fun b => ?_, State.reg_setReg_of_ne s x _⟩,
    _, exec_xorReg x y s, rfl, fun b => ?_, State.reg_setReg_of_ne s x _⟩
  · rw [State.reg_setReg_same, BitVec.getLsbD_or]
  · rw [State.reg_setReg_same, BitVec.getLsbD_and]
  · rw [State.reg_setReg_same, BitVec.getLsbD_xor]

/-! ## Sum and differences -/

/-- An instruction that writes a result of number `n` and then its flag, which `p` sets and `q` clears, leaves both as they are
unless the destination is VF, and writes nothing else (R121). -/
theorem exec_setRegFlag_cond {i : Instr} {s : State} {x : Fin 16} {r : Byte} {f : Bool} {n : Nat} {p q : Prop}
    (h : exec i s = .next (s.setRegFlag x r f)) (hr : r.toNat = n) (hp : p → f = true) (hq : q → f = false) :
    ∃ t, exec i s = .next t ∧ t = { s with v := t.v } ∧ (x ≠ 15 → (t.reg x).toNat = n) ∧
      (p → t.reg 15 = 1) ∧ (q → t.reg 15 = 0) ∧ ∀ k, k ≠ x → k ≠ 15 → t.reg k = s.reg k := by
  refine ⟨_, h, rfl, fun hx => ?_, fun hset => ?_, fun hclear => ?_, State.reg_setRegFlag_of_ne s x r f⟩
  · rw [State.reg_setRegFlag_dest s r f hx, hr]
  · rw [State.reg_setRegFlag_vf, if_pos (hp hset)]
  · rw [State.reg_setRegFlag_vf, hq hclear]
    rfl

/-- R122: a difference of bytes as a number. -/
theorem byte_sub_toNat (a b : Byte) : (a - b).toNat = (a.toNat + 256 - b.toNat) % 256 := by
  have := b.isLt
  rw [BitVec.toNat_sub]
  omega

theorem carryOut_of_lt {a b : Byte} : 255 < a.toNat + b.toNat → carryOut a b = true := decide_eq_true

theorem carryOut_of_le {a b : Byte} (h : a.toNat + b.toNat ≤ 255) : carryOut a b = false := decide_eq_false (Nat.not_lt.mpr h)

theorem noBorrow_of_le {a b : Byte} : b.toNat ≤ a.toNat → noBorrow a b = true := decide_eq_true

theorem noBorrow_of_lt {a b : Byte} (h : a.toNat < b.toNat) : noBorrow a b = false := decide_eq_false (Nat.not_le.mpr h)

/-- Settles O32: the flag is the carry out of the sum. -/
theorem addWritesSumAndCarry : Obligations.AddWritesSumAndCarry := by
  unfold Obligations.AddWritesSumAndCarry
  exact fun x y s => exec_setRegFlag_cond (exec_addReg x y s) (BitVec.toNat_add ..) carryOut_of_lt carryOut_of_le

/-- Settles O33: the two subtractions differ in the order of their operands alone. -/
theorem subtractionsWriteDifferenceAndNoBorrow : Obligations.SubtractionsWriteDifferenceAndNoBorrow := by
  unfold Obligations.SubtractionsWriteDifferenceAndNoBorrow
  exact fun x y s => ⟨exec_setRegFlag_cond (exec_subReg x y s) (byte_sub_toNat ..) noBorrow_of_le noBorrow_of_lt,
    exec_setRegFlag_cond (exec_subn x y s) (byte_sub_toNat ..) noBorrow_of_le noBorrow_of_lt⟩

/-! ## Shifts -/

/-- An instruction that writes a result of number `n` and then a flag of number `m` leaves VF of number `m`, the destination of number
`n` unless it is VF, and writes nothing else (R121). -/
theorem exec_setRegFlag_number {i : Instr} {s : State} {x : Fin 16} {r : Byte} {f : Bool} {n m : Nat}
    (h : exec i s = .next (s.setRegFlag x r f)) (hr : r.toNat = n) (hf : f.toNat = m) :
    ∃ t, exec i s = .next t ∧ t = { s with v := t.v } ∧ (x ≠ 15 → (t.reg x).toNat = n) ∧
      (t.reg 15).toNat = m ∧ ∀ k, k ≠ x → k ≠ 15 → t.reg k = s.reg k := by
  refine ⟨_, h, rfl, fun hx => ?_, ?_, State.reg_setRegFlag_of_ne s x r f⟩
  · rw [State.reg_setRegFlag_dest s r f hx, hr]
  · rw [State.reg_setRegFlag_vf, ← hf]
    cases f <;> rfl

/-- R118: the result of the right shift. -/
theorem byte_shiftRight_toNat (b : Byte) : (b >>> 1).toNat = b.toNat / 2 := by
  rw [BitVec.toNat_ushiftRight, Nat.shiftRight_eq_div_pow, pow_one]

/-- R120: the result of the left shift. -/
theorem byte_shiftLeft_toNat (b : Byte) : (b <<< 1).toNat = b.toNat * 2 % 256 := by
  rw [BitVec.toNat_shiftLeft, Nat.shiftLeft_eq, pow_one]

theorem outRight_toNat (b : Byte) : (outRight b).toNat = b.toNat % 2 := by
  rw [outRight, BitVec.getLsbD, Nat.toNat_testBit, pow_zero, Nat.div_one]

theorem outLeft_toNat (b : Byte) : (outLeft b).toNat = b.toNat / 128 := by
  have := b.isLt
  rw [outLeft, BitVec.getLsbD, Nat.toNat_testBit]
  omega

/-- Settles O34: the byte that the quirk selects is the operand of both shifts. -/
theorem shiftsWriteResultAndBitOut : Obligations.ShiftsWriteResultAndBitOut := by
  unfold Obligations.ShiftsWriteResultAndBitOut
  intro x y s b hb
  obtain rfl : b = s.shiftSource x y := hb
  exact ⟨exec_setRegFlag_number (exec_shr x y s) (byte_shiftRight_toNat _) (outRight_toNat _),
    exec_setRegFlag_number (exec_shl x y s) (byte_shiftLeft_toNat _) (outLeft_toNat _)⟩

end Sys2Proof.Machine
end

section
/-! The index register and the random byte (spec/43_index_random.md): the sums that the index wraps to, the flag beside it, and the
mask on a draw. -/

namespace Sys2Proof.Machine

/-! ## LD I -/

/-- Settles O35: the meaning of LD I writes I alone. -/
theorem loadIndexSetsIndex : Obligations.LoadIndexSetsIndex := by
  unfold Obligations.LoadIndexSetsIndex
  intro nnn s
  exact ⟨_, exec_ldI nnn s, addr16_toNat nnn, rfl⟩

/-! ## ADD I -/

/-- A remainder by at most 0x10000 fits a word. -/
theorem word_ofNat_mod_toNat (n : Nat) {m : Nat} (h0 : 0 < m) (hm : m ≤ 0x10000) : (BitVec.ofNat 16 (n % m)).toNat = n % m :=
  (BitVec.toNat_ofNat ..).trans (Nat.mod_eq_of_lt ((Nat.mod_lt n h0).trans_le hm))

theorem indexOut_of_lt {n : Nat} : 0x0FFF < n → indexOut n = true := decide_eq_true

theorem indexOut_of_le {n : Nat} (h : n ≤ 0x0FFF) : indexOut n = false := decide_eq_false (Nat.not_lt.mpr h)

/-- R11: VF holds the flag. -/
theorem State.reg_setFlag_vf (s : State) (f : Bool) : (s.setFlag f).reg 15 = if f then 1 else 0 := State.reg_setReg_same ..

theorem State.reg_setFlag_of_ne (s : State) (f : Bool) (k : Fin 16) (hk : k ≠ 15) : (s.setFlag f).reg k = s.reg k :=
  State.reg_setReg_of_ne s 15 _ k hk

/-- Settles O36: the two settings of the quirk; the sum is of the registers on entry, so VF as the operand is no special case. -/
theorem addToIndexWrapsAndFlags : Obligations.AddToIndexWrapsAndFlags := by
  unfold Obligations.AddToIndexWrapsAndFlags
  intro x s
  refine ⟨fun hq => ⟨_, exec_addI_wrap x s hq, rfl, ?_, fun hout => ?_, fun hin => ?_, fun k hk => ?_⟩,
    fun hq => ⟨_, exec_addI_plain x s hq, rfl, ?_⟩⟩
  · exact word_ofNat_mod_toNat (s.indexSum x) (by decide) (by decide)
  · rw [State.reg_setFlag_vf, State.indexSum, indexOut_of_lt hout, if_pos rfl]
  · rw [State.reg_setFlag_vf, State.indexSum, indexOut_of_le hin]
    rfl
  · rw [State.reg_setFlag_of_ne _ _ k hk, State.reg_setIndex]
  · exact word_ofNat_mod_toNat (s.indexSum x) (by decide) (by decide)

/-! ## RND -/

/-- The destination of RND holds the low byte of the draw under the mask (R132). -/
theorem State.reg_masked_draw (x : Fin 16) (nn : Byte) (s : State) :
    ((s.setReg x ((Config.rand16 s.draws).setWidth 8 &&& nn)).bumpDraws).reg x =
      (Config.rand16 s.draws).extractLsb' 0 8 &&& nn := by
  rw [State.reg_bumpDraws, State.reg_setReg_same, BitVec.setWidth_eq_extractLsb' (by decide)]

/-- A bit outside the mask is clear. -/
theorem byte_and_getLsbD_of_clear (r : Byte) {nn : Byte} {b : Nat} (h : nn.getLsbD b = false) : (r &&& nn).getLsbD b = false := by
  rw [BitVec.getLsbD_and, h, Bool.and_false]

/-- Settles O37: RND writes one register, and counts its draw. -/
theorem randomIsMasked : Obligations.RandomIsMasked := by
  unfold Obligations.RandomIsMasked
  intro x nn s
  have hx := State.reg_masked_draw x nn s
  refine ⟨_, exec_rnd x nn s, rfl, hx, rfl, fun b hb => ?_, State.reg_setReg_of_ne s x _⟩
  rw [hx]
  exact byte_and_getLsbD_of_clear _ hb

end Sys2Proof.Machine
end

section
/-! The display (spec/44_display.md). Everything DRW does to the buffer and the collision flag is one relation, `Inverts`: the pixels
under the sprite are inverted, and the flag rises when one of them was set. The one-update draw is such a step,
and so is the loop of R141, composed from its single pixels, no two of which are the same (R141 (f)). -/

namespace Sys2Proof.Machine

/-! ## Inverting a set of pixels -/

/-- From the buffer and collision flag `a` to `b`: exactly the pixels in `mask` are inverted, and the flag is set when it was, or
when a pixel in `mask` was (R141 steps 4 and 5). -/
structure Inverts (mask : Fin 32 → Fin 64 → Prop) (a b : Vector (Vector Bool 64) 32 × Bool) : Prop where
  inside : ∀ py px, mask py px → b.1[py][px] = !a.1[py][px]
  outside : ∀ py px, ¬ mask py px → b.1[py][px] = a.1[py][px]
  hit : b.2 = true ↔ a.2 = true ∨ ∃ py px, mask py px ∧ a.1[py][px] = true

/-- Buffers with the same pixels are equal. -/
theorem fb_ext {f g : Vector (Vector Bool 64) 32} (h : ∀ (py : Fin 32) (px : Fin 64), f[py][px] = g[py][px]) : f = g :=
  Vector.ext fun y hy => Vector.ext fun x hx => h ⟨y, hy⟩ ⟨x, hx⟩

namespace Inverts

variable {p q r : Fin 32 → Fin 64 → Prop} {a b c : Vector (Vector Bool 64) 32 × Bool}

/-- No pixel inverted, nothing changed. -/
theorem of_empty (h : ∀ py px, ¬ p py px) : Inverts p a a where
  inside py px hp := absurd hp (h py px)
  outside _ _ _ := rfl
  hit := by simp [h]

/-- Two sets of pixels with none in common, one after the other, are inverted as their union (R141 (f)). -/
theorem union (hab : Inverts p a b) (hbc : Inverts q b c) (hdisj : ∀ py px, p py px → ¬ q py px)
    (hr : ∀ py px, r py px ↔ p py px ∨ q py px) : Inverts r a c where
  inside py px h := by
    obtain hp | hq := (hr py px).mp h
    · rw [hbc.outside py px (hdisj py px hp), hab.inside py px hp]
    · rw [hbc.inside py px hq, hab.outside py px fun hp => hdisj py px hp hq]
  outside py px h := by
    obtain ⟨hp, hq⟩ := not_or.mp (mt (hr py px).mpr h)
    rw [hbc.outside py px hq, hab.outside py px hp]
  hit := by
    have hkept : ∀ py px, q py px ∧ b.1[py][px] = true ↔ q py px ∧ a.1[py][px] = true := fun py px =>
      and_congr_right fun hq => by rw [hab.outside py px fun hp => hdisj py px hp hq]
    simp only [hbc.hit, hab.hit, hkept, hr, or_and_right, exists_or, or_assoc]

/-- The pixels inverted determine the buffer and the flag. -/
theorem unique (hb : Inverts p a b) (hc : Inverts p a c) : b = c := by
  refine Prod.ext (fb_ext fun py px => ?_) (Bool.eq_iff_iff.mpr (hb.hit.trans hc.hit.symm))
  by_cases h : p py px
  · rw [hb.inside py px h, hc.inside py px h]
  · rw [hb.outside py px h, hc.outside py px h]

/-- Inverting the same pixels again restores the buffer, whatever the flags say (R141 (h)). -/
theorem restores {f g h : Vector (Vector Bool 64) 32} {i j k l : Bool} (hfg : Inverts p (f, i) (g, j))
    (hgh : Inverts p (g, k) (h, l)) : h = f := by
  refine fb_ext fun py px => ?_
  by_cases hp : p py px
  · exact (hgh.inside py px hp).trans ((congrArg _ (hfg.inside py px hp)).trans (Bool.not_not _))
  · exact (hgh.outside py px hp).trans (hfg.outside py px hp)

end Inverts

/-! ## The loop of the rule, from the pixel to the rows -/

theorem pixelAt_eq_true (fb : Vector (Vector Bool 64) 32) (py px : Nat) :
    pixelAt fb py px = true ↔ ∃ (i : Fin 32) (j : Fin 64), (i.val = py ∧ j.val = px) ∧ fb[i][j] = true := by
  unfold pixelAt
  split
  case isTrue h =>
    refine ⟨fun hp => ⟨⟨py, h.1⟩, ⟨px, h.2⟩, ⟨rfl, rfl⟩, hp⟩, ?_⟩
    rintro ⟨i, j, ⟨rfl, rfl⟩, hp⟩
    exact hp
  case isFalse h =>
    refine iff_of_false Bool.false_ne_true ?_
    rintro ⟨i, j, ⟨rfl, rfl⟩, -⟩
    exact h ⟨i.isLt, j.isLt⟩

theorem invertPixel_pixel (fb : Vector (Vector Bool 64) 32) (py px : Nat) (i : Fin 32) (j : Fin 64) :
    (invertPixel fb py px)[i][j] = if i.val = py ∧ j.val = px then !fb[i][j] else fb[i][j] := by
  unfold invertPixel
  split
  case isTrue => grind
  case isFalse => grind

/-- One pixel of the loop (R141 step 5). -/
theorem inverts_invertPixel (fb : Vector (Vector Bool 64) 32) (hit : Bool) (py px : Nat) :
    Inverts (fun i j => i.val = py ∧ j.val = px) (fb, hit) (invertPixel fb py px, hit || pixelAt fb py px) where
  inside i j h := (invertPixel_pixel ..).trans (if_pos h)
  outside i j h := (invertPixel_pixel ..).trans (if_neg h)
  hit := by rw [Bool.or_eq_true, pixelAt_eq_true]

/-- The pixels of row `py` under the set bits of the sprite byte `b`, `left` columns from column `c` of the sprite on. -/
def columnsOver (b : Byte) (x0 py left c : Nat) (i : Fin 32) (j : Fin 64) : Prop :=
  i.val = py ∧ x0 + c ≤ j.val ∧ j.val < x0 + c + left ∧ b.getLsbD (7 - (j.val - x0)) = true

/-- One column more: the pixel in it when the bit is set, then the columns after it. -/
theorem columnsOver_succ (b : Byte) (x0 py left c : Nat) (i : Fin 32) (j : Fin 64) :
    columnsOver b x0 py (left + 1) c i j ↔
      b.getLsbD (7 - c) = true ∧ i.val = py ∧ j.val = x0 + c ∨ columnsOver b x0 py left (c + 1) i j := by
  unfold columnsOver
  by_cases hj : j.val = x0 + c
  · have hc : j.val - x0 = c := by omega
    grind
  · grind

/-- The column loop inverts the pixels under the set bits; past the right edge there is none, so the break loses nothing. -/
theorem inverts_ruleColumns (b : Byte) (x0 py left c : Nat) (acc : Vector (Vector Bool 64) 32 × Bool) :
    Inverts (columnsOver b x0 py left c) acc (ruleColumns b x0 py left c acc) := by
  induction left generalizing c acc with
  | zero => exact .of_empty fun i j ⟨_, hge, hlt, _⟩ => by omega
  | succ left ih =>
    obtain ⟨fb, hit⟩ := acc
    unfold ruleColumns
    split
    case isTrue => exact .of_empty fun i j ⟨_, hge, _, _⟩ => by omega
    case isFalse =>
      split
      case isTrue hb =>
        refine (inverts_invertPixel fb hit py (x0 + c)).union (ih ..) ?_ fun i j => by simp [columnsOver_succ, hb]
        rintro i j ⟨-, hj⟩ ⟨-, hge, -, -⟩
        omega
      case isFalse hb =>
        have hskip : columnsOver b x0 py (left + 1) c = columnsOver b x0 py left (c + 1) := by
          ext i j
          simp [columnsOver_succ, hb]
        rw [hskip]
        exact ih ..

/-- The pixels under the sprite in its rows `k`, `k + 1`, ..., `left` of them. -/
def rowsOver (s : State) (x0 y0 left k : Nat) (i : Fin 32) (j : Fin 64) : Prop :=
  y0 + k ≤ i.val ∧ i.val < y0 + k + left ∧ columnsOver (s.memRead (s.index.toNat + (i.val - y0))) x0 i.val 8 0 i j

/-- One row more: the pixels under its byte, then the rows after it. -/
theorem rowsOver_succ (s : State) (x0 y0 left k : Nat) (i : Fin 32) (j : Fin 64) :
    rowsOver s x0 y0 (left + 1) k i j ↔
      columnsOver (s.memRead (s.index.toNat + k)) x0 (y0 + k) 8 0 i j ∨ rowsOver s x0 y0 left (k + 1) i j := by
  unfold rowsOver
  by_cases hi : i.val = y0 + k
  · have hk : i.val - y0 = k := by omega
    grind [columnsOver]
  · grind [columnsOver]

/-- The row loop inverts the pixels under the sprite. -/
theorem inverts_ruleRows (s : State) (x0 y0 left k : Nat) (acc : Vector (Vector Bool 64) 32 × Bool) :
    Inverts (rowsOver s x0 y0 left k) acc (ruleRows s x0 y0 left k acc) := by
  induction left generalizing k acc with
  | zero => exact .of_empty fun i j ⟨hge, hlt, _⟩ => by omega
  | succ left ih =>
    refine (inverts_ruleColumns ..).union (ih ..) ?_ (rowsOver_succ s x0 y0 left k)
    rintro i j ⟨hi, -⟩ ⟨hge, -⟩
    omega

/-! ## The one-update draw -/

/-- The pixels the one update inverts (R142). -/
theorem State.spriteBit_eq_true (s : State) (x0 y0 rows : Nat) (i : Fin 32) (j : Fin 64) :
    s.spriteBit x0 y0 rows i j = true ↔ y0 ≤ i.val ∧ i.val < y0 + rows ∧ x0 ≤ j.val ∧ j.val < x0 + 8 ∧
      (s.memRead (s.index.toNat + (i.val - y0))).getLsbD (7 - (j.val - x0)) = true := by
  simp [State.spriteBit, State.indexPlus, and_assoc]

/-- They are the pixels the row loop visits. -/
theorem State.spriteBit_iff_rowsOver (s : State) (x0 y0 rows : Nat) (i : Fin 32) (j : Fin 64) :
    s.spriteBit x0 y0 rows i j = true ↔ rowsOver s x0 y0 rows 0 i j := by
  simp [State.spriteBit_eq_true, rowsOver, columnsOver]

/-- The rows clipped away are below the screen, so they are the pixels of the unclipped sprite too (R141 step 2). -/
theorem State.spriteBit_iff_spriteOver (s : State) (x y : Fin 16) (n : Nat) (i : Fin 32) (j : Fin 64) :
    s.spriteBit (s.drawCol x) (s.drawRow y) (drawRows n (s.drawRow y)) i j = true ↔ spriteOver s x y n i j := by
  have hclip : i.val < s.drawRow y + drawRows n (s.drawRow y) ↔ i.val < s.drawRow y + n := by
    unfold drawRows
    omega
  rw [State.spriteBit_eq_true, hclip]
  rfl

/-- The one update inverts them. -/
theorem inverts_drawn {mask : Fin 32 → Fin 64 → Prop} {s : State} {x0 y0 rows : Nat}
    (h : ∀ i j, s.spriteBit x0 y0 rows i j = true ↔ mask i j) :
    Inverts mask (s.fb, false) (s.drawn x0 y0 rows, s.collides x0 y0 rows) where
  inside i j hm := by rw [State.drawn_pixel, (h i j).mpr hm, Bool.bne_true, State.pixel]
  outside i j hm := by rw [State.drawn_pixel, Bool.eq_false_iff.mpr (mt (h i j).mp hm), Bool.bne_false, State.pixel]
  hit := by simp [State.collides_iff, State.pixel, h]

/-- DRW without an error inverts the pixels under the sprite (R141, R142). -/
theorem inverts_drawn_spriteOver (x y : Fin 16) (n : Nat) (s : State) :
    Inverts (spriteOver s x y n) (s.fb, false)
      ((s.completed (.drw x y n)).fb, s.collides (s.drawCol x) (s.drawRow y) (drawRows n (s.drawRow y))) :=
  inverts_drawn (State.spriteBit_iff_spriteOver s x y n)

/-- The loop computes the one update (R141, log entry 20). -/
theorem ruleRows_eq_drawn (s : State) (x0 y0 rows : Nat) :
    ruleRows s x0 y0 rows 0 (s.fb, false) = (s.drawn x0 y0 rows, s.collides x0 y0 rows) :=
  (inverts_ruleRows s x0 y0 rows 0 (s.fb, false)).unique (inverts_drawn (State.spriteBit_iff_rowsOver s x0 y0 rows))

theorem flag_eq_one_iff (f : Bool) : (if f then 1 else 0 : Byte) = 1 ↔ f = true := by cases f <;> decide

/-- VF after a draw is 1 exactly when a pixel under the sprite was set (R141 step 6). -/
theorem State.vf_drw_eq_one_iff (x y : Fin 16) (n : Nat) (s : State) :
    (s.completed (.drw x y n)).reg 15 = 1 ↔ ∃ py px, spriteOver s x y n py px ∧ s.pixel py px = true := by
  rw [State.completed, State.reg_drawSprite, if_pos rfl, flag_eq_one_iff, State.collides_iff]
  simp only [State.spriteBit_iff_spriteOver]

/-! ## What a draw reads -/

/-- The sprite is read from I, memory and the two starting coordinates. -/
theorem spriteOver_congr {s t : State} {x y x' y' : Fin 16} (n : Nat) (hi : t.index = s.index) (hm : t.mem = s.mem)
    (hx : (t.reg x').toNat % 64 = (s.reg x).toNat % 64) (hy : (t.reg y').toNat % 32 = (s.reg y).toNat % 32) :
    spriteOver t x' y' n = spriteOver s x y n := by
  ext i j
  simp only [spriteOver, State.memRead, hi, hm, hx, hy]

/-- The bounds check reads I and the starting row (R141 step 3). -/
theorem errorOf_drw_congr {s t : State} {y y' : Fin 16} (x x' : Fin 16) (n : Nat) (hi : t.index = s.index)
    (hy : (t.reg y').toNat % 32 = (s.reg y).toNat % 32) : errorOf (.drw x' y' n) t = errorOf (.drw x y n) s := by
  simp only [errorOf, hi, hy]

/-! ## The obligations -/

/-- Settles O40: the bounds check is the same, and the loop inverts the pixels that the one update inverts. -/
theorem drawIsTheLoopOfTheRule : Obligations.DrawIsTheLoopOfTheRule := by
  unfold Obligations.DrawIsTheLoopOfTheRule
  intro x y n s
  unfold ruleDraw
  extract_lets x0 y0 rows out
  split
  case isTrue h => exact exec_of_error (if_pos h)
  case isFalse h =>
    have hok : errorOf (.drw x y n) s = none := if_neg h
    have hout : out = (s.drawn x0 y0 rows, s.collides x0 y0 rows) := ruleRows_eq_drawn ..
    rw [exec_of_no_error hok, hout]
    exact congrArg _ (State.drawSprite_eq ..)

/-- Settles O39: with its rows in memory the draw raises no error, and the completed draw inverts the pixels under the sprite. -/
theorem drawInvertsPixelsUnderTheSprite : Obligations.DrawInvertsPixelsUnderTheSprite := by
  unfold Obligations.DrawInvertsPixelsUnderTheSprite
  intro x y n s hin
  have hok : errorOf (.drw x y n) s = none := if_neg (by omega)
  have hinv := inverts_drawn_spriteOver x y n s
  have hvf := State.vf_drw_eq_one_iff x y n s
  refine ⟨_, exec_of_no_error hok, State.drawSprite_eq .., rfl, hinv.inside, hinv.outside, hvf.mpr, fun hclear => ?_,
    fun k hk => (State.reg_drawSprite ..).trans (if_neg hk)⟩
  refine (State.vf_drawSprite ..).resolve_right fun h1 => ?_
  obtain ⟨py, px, hover, hset⟩ := hvf.mp h1
  exact Bool.false_ne_true ((hclear py px hover).symm.trans hset)

/-- Settles O41: the second draw has the first one's sprite and bounds, and finds set the pixels that the first one found unset. -/
theorem drawingTwiceRestoresTheBuffer : Obligations.DrawingTwiceRestoresTheBuffer := by
  unfold Obligations.DrawingTwiceRestoresTheBuffer
  intro x y x' y' n s t hok ht hx hy
  have ht : s.completed (.drw x y n) = t := Host.Outcome.next.inj ((exec_of_no_error hok).symm.trans ht)
  have hi : (s.completed (.drw x y n)).index = s.index := State.drawSprite_keeps State.index (fun _ _ _ => rfl) ..
  have hm : (s.completed (.drw x y n)).mem = s.mem := State.drawSprite_keeps State.mem (fun _ _ _ => rfl) ..
  have hfirst := inverts_drawn_spriteOver x y n s
  rw [ht] at hi hm hfirst
  have hover := spriteOver_congr n hi hm hx hy
  have hsecond := inverts_drawn_spriteOver x' y' n t
  rw [hover] at hsecond
  have hflip : ∀ py px, spriteOver s x y n py px → t.pixel py px = !s.pixel py px := hfirst.inside
  refine ⟨_, exec_of_no_error ((errorOf_drw_congr x x' n hi hy).trans hok), hfirst.restores hsecond, ?_⟩
  rw [State.vf_drw_eq_one_iff, hover]
  exact exists₂_congr fun py px => and_congr_right fun hp => by rw [hflip py px hp, Bool.not_eq_true']

/-- Settles O38: the cleared buffer holds false everywhere. -/
theorem clearScreenClearsEveryPixel : Obligations.ClearScreenClearsEveryPixel := by
  unfold Obligations.ClearScreenClearsEveryPixel
  intro s
  refine ⟨_, exec_cls s, rfl, rfl, fun py px => ?_⟩
  simp [State.pixel]

end Sys2Proof.Machine
end

section
/-! The keypad (spec/45_keypad_timers.md): the key skips, and LD Vx,K, which waits by taking PC back over itself. -/

namespace Sys2Proof.Machine

/-! ## SKP and SKNP -/

/-- R150: with a key number in V[x]. -/
theorem exec_skp_of_le {x : Fin 16} {s : State} (h : (s.reg x).toNat ≤ 15) :
    exec (.skp x) s = .next (s.skipIf (s.keys.getLsbD (s.reg x).toNat == true)) :=
  (exec_skp_next ..).mpr (.inr ⟨h, rfl⟩)

/-- R151: with a key number in V[x]. -/
theorem exec_sknp_of_le {x : Fin 16} {s : State} (h : (s.reg x).toNat ≤ 15) :
    exec (.sknp x) s = .next (s.skipIf (s.keys.getLsbD (s.reg x).toNat == false)) :=
  (exec_sknp_next ..).mpr (.inr ⟨h, rfl⟩)

/-- Settles O42: within the range each skip's condition is its key test, beyond it both raise. -/
theorem keySkipsTestOneKey : Obligations.KeySkipsTestOneKey := by
  unfold Obligations.KeySkipsTestOneKey
  intro x s
  refine ⟨fun hkey => ⟨?skp, ?sknp⟩, fun hout => ⟨?skpRaises, ?sknpRaises⟩⟩
  case skp => exact exec_skips (exec_skp_of_le hkey) beq_iff_eq.mpr (fun hup => by rw [hup]; rfl)
  case sknp => exact exec_skips (exec_sknp_of_le hkey) beq_iff_eq.mpr (fun hdown => by rw [hdown]; rfl)
  case skpRaises => exact (exec_skp_next ..).mpr (.inl ⟨hout, rfl⟩)
  case sknpRaises => exact (exec_sknp_next ..).mpr (.inl ⟨hout, rfl⟩)

/-! ## LD Vx,K -/

/-- R152: while some key is down, the key that LD Vx,K reports is down. -/
theorem State.reportedKey_down {s : State} (h : s.keys ≠ 0#16) : s.keys.getLsbD s.reportedKey.val = true :=
  keyFrom_down s.keys _ h

/-- A key number fits a register. -/
theorem byte_ofNat_key_toNat (k : Fin 16) : (BitVec.ofNat 8 k.val).toNat = k.val :=
  (BitVec.toNat_ofNat ..).trans (Nat.mod_eq_of_lt (k.isLt.trans (by decide)))

/-- The destination of LD Vx,K holds the number of the reported key (R152). -/
theorem State.reg_stored_key_toNat (x : Fin 16) (s : State) :
    (((s.setReg x (BitVec.ofNat 8 s.reportedKey.val)).bumpDraws).reg x).toNat = s.reportedKey.val := by
  rw [State.reg_bumpDraws, State.reg_setReg_same, byte_ofNat_key_toNat]

/-- Settles O43: no key down and some key down; the stored key is the reported one, which is down. -/
theorem keyWaitStallsOrStoresAKey : Obligations.KeyWaitStallsOrStoresAKey := by
  unfold Obligations.KeyWaitStallsOrStoresAKey
  intro x s
  constructor
  · intro hnone
    exact ⟨_, exec_ldKey_wait x s hnone, rfl, rfl⟩
  · intro hsome
    exact ⟨_, exec_ldKey_store x s hsome, rfl, ⟨s.reportedKey, State.reportedKey_down hsome, State.reg_stored_key_toNat x s⟩,
      State.reg_setReg_of_ne s x _⟩

/-- What the fetch adds to PC, the waiting instruction takes back (R84, R152). -/
theorem State.setPc_add_two_sub_two (s : State) : (s.setPc (s.pc + 2)).setPc ((s.setPc (s.pc + 2)).pc - 2) = s := by
  rw [State.setPc_pc, BitVec.add_sub_cancel]
  rfl

/-- Settles O44: the Step is the waiting instruction on the advanced PC, and it takes the advance back. -/
theorem keyWaitStepChangesNothing : Obligations.KeyWaitStepChangesNothing := by
  unfold Obligations.KeyWaitStepChangesNothing
  intro s x ha he hp hk hd
  calc step s
      = s.coreStep := step_of_nil ha
    _ = exec (.ldKey x) (s.setPc (s.pc + 2)) := State.coreStep_of_decode he (by omega) hd
    _ = .next ((s.setPc (s.pc + 2)).setPc ((s.setPc (s.pc + 2)).pc - 2)) := exec_ldKey_wait x _ hk
    _ = .next s := congrArg _ s.setPc_add_two_sub_two

end Sys2Proof.Machine
end

section
/-! The memory transfers (spec/46_memory_transfer.md): the glyph address, the decimal digits, and the two block transfers, which
within memory are one run of stores and one register file. -/

namespace Sys2Proof.Machine

/-! ## LD F -/

/-- With sound parameters a glyph's address does not wrap (R160). -/
theorem State.glyphAddr_toNat {s : State} {d : Byte} (hc : s.cfg.wellFormed = true) (hd : d.toNat ≤ 15) :
    (s.glyphAddr d).toNat = s.cfg.fontBase + 5 * d.toNat := by
  have hbase := Config.fontBase_add_le hc
  exact (BitVec.toNat_ofNat ..).trans (Nat.mod_eq_of_lt (by omega))

/-- Settles O46: the two cases of the range check; the address of a hex digit's glyph fits I. -/
theorem fontAddressOfADigit : Obligations.FontAddressOfADigit := by
  unfold Obligations.FontAddressOfADigit
  intro x s
  constructor
  · intro hd hc
    exact ⟨_, (exec_ldF_next ..).mpr (.inr ⟨hd, rfl⟩), rfl, State.glyphAddr_toNat hc hd⟩
  · intro hout
    exact (exec_ldF_next ..).mpr (.inl ⟨hout, rfl⟩)

/-! ## LD B -/

/-- The stored digit of a number is that number. -/
theorem byte_ofNat_digit_toNat {n : Nat} (h : n ≤ 9) : (BitVec.ofNat 8 n).toNat = n :=
  (BitVec.toNat_ofNat ..).trans (Nat.mod_eq_of_lt (h.trans_lt (by decide)))

/-- R161: within memory LD B is the run of the three digits from I. -/
theorem exec_ldB_of_le {x : Fin 16} {s : State} (h : s.index.toNat + 2 ≤ 0xFFF) :
    exec (.ldB x) s = .next (s.memWriteBytes s.index.toNat (bcdDigits (s.reg x))) :=
  (exec_ldB_next ..).mpr (.inr ⟨h, rfl⟩)

/-- R161: the three numbers at I, I + 1 and I + 2 after the digits of `b` were stored there. -/
theorem State.memRead_bcdDigits_toNat {s : State} {a : Nat} (b : Byte) (hm : s.mem.wf = true) (ha : a + 2 ≤ 0xFFF) :
    ((s.memWriteBytes a (bcdDigits b)).memRead a).toNat = b.toNat / 100 ∧
      ((s.memWriteBytes a (bcdDigits b)).memRead (a + 1)).toNat = b.toNat / 10 % 10 ∧
      ((s.memWriteBytes a (bcdDigits b)).memRead (a + 2)).toNat = b.toNat % 10 := by
  have hb : a + (bcdDigits b).length ≤ 0x1000 := Nat.succ_le_succ ha
  have hlt : b.toNat < 256 := b.isLt
  have h0 := State.memRead_memWriteBytes_inside (k := 0) hm hb (by decide : 0 < 3)
  have h1 := State.memRead_memWriteBytes_inside (k := 1) hm hb (by decide : 1 < 3)
  have h2 := State.memRead_memWriteBytes_inside (k := 2) hm hb (by decide : 2 < 3)
  exact ⟨(congrArg _ h0).trans (byte_ofNat_digit_toNat (by omega)), (congrArg _ h1).trans (byte_ofNat_digit_toNat (by omega)),
    (congrArg _ h2).trans (byte_ofNat_digit_toNat (by omega))⟩

/-- Settles O47: the run of the three digits, read back; hundreds, tens and ones make up the number. -/
theorem bcdStoresThreeDigits : Obligations.BcdStoresThreeDigits := by
  unfold Obligations.BcdStoresThreeDigits
  intro x s hm h
  obtain ⟨hundreds, tens, ones⟩ := State.memRead_bcdDigits_toNat (s.reg x) hm h
  have hframe : ∀ a, a < s.index.toNat ∨ s.index.toNat + 2 < a →
      (s.memWriteBytes s.index.toNat (bcdDigits (s.reg x))).memRead a = s.memRead a :=
    fun a ha => State.memRead_memWriteBytes_outside hm (Nat.succ_le_succ h) ha
  refine ⟨_, exec_ldB_of_le h, rfl, ?_, ?_, ?_, hframe⟩
  · rw [hundreds, tens, ones]
    omega
  · rw [tens]
    omega
  · rw [ones]
    omega

/-! ## The block transfers -/

/-- R163: within memory LD Vx,[I] replaces the register file. -/
theorem exec_ldLoad_of_le {x : Fin 16} {s : State} (h : s.index.toNat + x.val ≤ 0xFFF) :
    exec (.ldLoad x) s = .next (s.setRegs (s.loadedRegs x)) :=
  (exec_ldLoad_next ..).mpr (.inr ⟨h, rfl⟩)

/-- R163: the registers up to x are loaded. -/
theorem State.reg_loadedRegs_of_le {x k : Fin 16} (s : State) (hk : k ≤ x) :
    (s.setRegs (s.loadedRegs x)).reg k = s.memRead (s.index.toNat + k.val) :=
  (s.reg_loadedRegs x k).trans (if_pos hk)

/-- R163: the registers beyond x are kept. -/
theorem State.reg_loadedRegs_of_lt {x k : Fin 16} (s : State) (hk : x < k) : (s.setRegs (s.loadedRegs x)).reg k = s.reg k :=
  (s.reg_loadedRegs x k).trans (if_neg (not_le.mpr hk))

/-- Settles O48: the store completes as one run of x + 1 bytes; inside it stand the registers, outside it the old bytes. -/
theorem blockStoreWritesFirstRegisters : Obligations.BlockStoreWritesFirstRegisters := by
  unfold Obligations.BlockStoreWritesFirstRegisters
  intro x s hm h
  have hlen : (s.firstRegs x).length = x.val + 1 := s.firstRegs_length x
  refine ⟨_, exec_of_no_error (errorOf_ldStore_of_le h), rfl, fun k hk => State.memRead_completed_ldStore hm h hk, fun a ha => ?_⟩
  exact State.memRead_memWriteBytes_outside hm (by omega) (by omega)

/-- Settles O49: the load writes the register file alone. -/
theorem blockLoadReadsFirstRegisters : Obligations.BlockLoadReadsFirstRegisters := by
  unfold Obligations.BlockLoadReadsFirstRegisters
  intro x s h
  exact ⟨_, exec_ldLoad_of_le h, rfl, fun _ => s.reg_loadedRegs_of_le, fun _ => s.reg_loadedRegs_of_lt⟩

/-- Settles O50: the load reads at I + k, which the store left in place, what the store put there. -/
theorem loadAfterStoreRestoresRegisters : Obligations.LoadAfterStoreRestoresRegisters := by
  unfold Obligations.LoadAfterStoreRestoresRegisters
  intro x s v hm h
  have hload := exec_ldLoad_of_le (x := x) (s := (s.completed (.ldStore x)).setRegs v) h
  refine ⟨_, _, exec_of_no_error (errorOf_ldStore_of_le h), hload, fun k hk => ?_, fun k => State.reg_loadedRegs_of_lt _⟩
  exact (State.reg_loadedRegs_of_le _ hk).trans (State.memRead_completed_ldStore hm h hk)

end Sys2Proof.Machine
end

section
/-! Exceptions (spec/60_exceptions.md): the errors that an instruction raises, and the two that a Step raises before one runs. -/

namespace Sys2Proof.Machine

/-! ## The errors of the instructions -/

/-- Settles O13, from the two ways an instruction ends; the completed instruction keeps ERR. -/
theorem errorsRaisedExactlyWhenListed : Obligations.ErrorsRaisedExactlyWhenListed := by
  unfold Obligations.ErrorsRaisedExactlyWhenListed
  exact fun i s => ⟨fun _ => exec_of_error, fun h => ⟨_, exec_of_no_error h, s.completed_err i⟩⟩

/-- With ERR clear, the error an instruction latches is the one that `errorOf` names (R188, R190). -/
theorem exec_latches_iff {i : Instr} {s : State} {e : Error} (he : s.err = none) :
    (∃ t, exec i s = .next t ∧ t.err = some e) ↔ errorOf i s = some e := by
  constructor
  · rintro ⟨t, ht, hte⟩
    obtain ⟨e', hraise, rfl⟩ | ⟨-, rfl⟩ := (exec_next i s t).mp ht
    · exact hraise.trans hte
    · rw [State.completed_err, he] at hte
      cases hte
  · exact fun h => ⟨_, exec_of_error h, rfl⟩

/-- R183: of the listed errors, StackUnderflow belongs to RET on the empty stack alone. -/
theorem errorOf_eq_stackUnderflow_iff (i : Instr) (s : State) :
    errorOf i s = some .stackUnderflow ↔ i = .ret ∧ s.stack = [] := by
  cases i with
  | ret => simp [errorOf]
  -- Each of these raises nothing, or an error with another name.
  | _ => simp [errorOf]

/-- Settles O14, from the list of the errors. -/
theorem stackUnderflowExactlyOnEmptyReturn : Obligations.StackUnderflowExactlyOnEmptyReturn := by
  unfold Obligations.StackUnderflowExactlyOnEmptyReturn
  exact fun i s he => (exec_latches_iff he).trans (errorOf_eq_stackUnderflow_iff i s)

/-! ## The errors of a Step -/

/-- R86, R181: a Step whose fetch fails ends there, with OutOfBounds latched and PC kept. -/
theorem State.coreStep_of_ge {s : State} (he : s.err = none) (hp : 0xFFF ≤ s.pc.toNat) :
    s.coreStep = s.raise (.outOfBounds s.pc) := by
  rw [State.coreStep, he, State.fetch_of_ge he hp]
  rfl

/-- R86, R182: a Step that fetches an unknown word raises UnknownOpcode from the advanced PC. -/
theorem State.coreStep_of_unknown {s : State} {f : FailingField} (he : s.err = none) (hp : s.pc.toNat < 0xFFF)
    (hd : decode s.wordAtPc = .error f) :
    s.coreStep = (s.setPc (s.pc + 2)).raise (.unknownOpcode s.wordAtPc f) := by
  rw [State.coreStep_of_fetch (State.fetch_of_lt he hp)]
  exact State.decodeExecute_of_error he hd

/-- Settles O9: the core's Step on the two sides of the fetch's bound. -/
theorem stepRaisesTheErrorsOfFetchAndDecode : Obligations.StepRaisesTheErrorsOfFetchAndDecode := by
  unfold Obligations.StepRaisesTheErrorsOfFetchAndDecode
  intro s ha he
  rw [step_of_nil ha]
  exact ⟨State.coreStep_of_ge he, fun hp f => State.coreStep_of_unknown he (Nat.lt_succ_of_le hp)⟩

end Sys2Proof.Machine
end

section
/-! The boot (spec/70_reset_and_hazards.md R200): `initialize` and `load_program` write apart from each other, so their order does
not matter. -/

namespace Sys2Proof.Machine

/-- Two runs of stores within memory, one below the other, commute: both orders read alike, and canonical memories that read alike
are equal (R43, R49). -/
theorem Memory.writeBytes_comm {m : Memory} {a b : Nat} {bs cs : List Byte} (hm : m.wf = true) (hab : a + bs.length ≤ b)
    (hb : b + cs.length ≤ 0x1000) : (m.writeBytes a bs).writeBytes b cs = (m.writeBytes b cs).writeBytes a bs := by
  have hlow : (m.writeBytes a bs).wf = true := Memory.wf_writeBytes bs m a hm
  have hhigh : (m.writeBytes b cs).wf = true := Memory.wf_writeBytes cs m b hm
  have ha : a + bs.length ≤ 0x1000 := by omega
  refine Memory.ext_of_read _ _ 0 (Memory.wf_writeBytes cs _ b hlow) (Memory.wf_writeBytes bs _ a hhigh) fun c => ?_
  rw [Memory.read_writeBytes cs _ b c hlow hb, Memory.read_writeBytes bs m a c hm ha,
    Memory.read_writeBytes bs _ a c hhigh ha, Memory.read_writeBytes cs m b c hm hb]
  by_cases hc : b ≤ c
  · have hout : ¬(a ≤ c ∧ c < a + bs.length) := by omega
    rw [if_neg hout, if_neg hout]
  · have hout : ¬(b ≤ c ∧ c < b + cs.length) := by omega
    rw [if_neg hout, if_neg hout]

/-- With sound parameters the font ends below 0x200, so writing it after a load or before it makes no difference (R82, R83). -/
theorem State.initFont_memWriteBytes_comm {s : State} {bytes : List Byte} (hm : s.mem.wf = true) (hc : s.cfg.wellFormed = true)
    (hlen : bytes.length ≤ 3584) : s.initFont.memWriteBytes 0x200 bytes = (s.memWriteBytes 0x200 bytes).initFont := by
  have hfont : s.cfg.fontBase + s.cfg.fontGlyphs.toList.length ≤ 0x200 := by
    rw [Vector.length_toList]
    exact Config.fontBase_add_le hc
  exact congrArg s.setMem (Memory.writeBytes_comm hm hfont (by omega))

/-- The font is written and nothing else (R82). -/
theorem step_of_initFont {s : State} {rest : List Turn} (h : s.agenda = .initFont :: rest) :
    step s = .next (s.initFont.setAgenda rest) := step_of_cons h

/-- A load of at most 3584 bytes is accepted (R83, R198). -/
theorem step_of_loadProgram_le {s : State} {bytes : List Byte} {rest : List Turn} (h : s.agenda = .loadProgram bytes :: rest)
    (hlen : bytes.length ≤ 3584) : step s = .next (((s.memWriteBytes 0x200 bytes).setPc 0x200).setAgenda rest) :=
  step_of_loadProgram_ok h ((s.loadProgram_ok bytes _).mpr ⟨hlen, rfl⟩)

/-- `initialize` and then an accepted load, scheduled before what is waiting, are two steps (R82, R83). -/
theorem step_initFont_then_loadProgram {bytes : List Byte} (s : State) (hlen : bytes.length ≤ 3584) :
    ∃ t, step (s.setAgenda (.initFont :: .loadProgram bytes :: s.agenda)) = .next t ∧
      step t = .next ((s.initFont.memWriteBytes 0x200 bytes).setPc 0x200) :=
  ⟨s.initFont.setAgenda (.loadProgram bytes :: s.agenda), step_of_initFont rfl, step_of_loadProgram_le rfl hlen⟩

/-- An accepted load and then `initialize`, scheduled before what is waiting, are two steps (R82, R83). -/
theorem step_loadProgram_then_initFont {bytes : List Byte} (s : State) (hlen : bytes.length ≤ 3584) :
    ∃ t, step (s.setAgenda (.loadProgram bytes :: .initFont :: s.agenda)) = .next t ∧
      step t = .next ((s.memWriteBytes 0x200 bytes).initFont.setPc 0x200) :=
  ⟨((s.memWriteBytes 0x200 bytes).setPc 0x200).setAgenda (.initFont :: s.agenda), step_of_loadProgram_le rfl hlen,
    step_of_initFont rfl⟩

/-- Settles O57: the boot state is the load on top of the font, and the two commute. The font lies below the load, and a byte outside
both is as reset left it. -/
theorem bootReachesTheBootState : Obligations.BootReachesTheBootState := by
  unfold Obligations.BootReachesTheBootState
  intro bytes hlen
  have hm : State.reset.mem.wf = true := State.reset_mem_wf
  have hc : State.reset.cfg.wellFormed = true := rfl
  obtain ⟨hfont, hfontFrame, -, -⟩ := initializeWritesTheFontOnce State.reset hm hc
  obtain ⟨u, hload, -, -, hprog, hprogFrame⟩ :=
    (loadProgramWritesBytesAndPc bytes State.reset.initFont (State.memWriteBytes_mem_wf _ _ hm)).1 hlen
  obtain ⟨-, rfl⟩ := (State.loadProgram_ok ..).mp hload
  obtain ⟨t, hst, htu⟩ := step_initFont_then_loadProgram State.reset hlen
  obtain ⟨t', hst', htu'⟩ := step_loadProgram_then_initFont State.reset hlen
  rw [← State.initFont_memWriteBytes_comm hm hc hlen] at htu'
  refine ⟨t, t', _, hst, htu, hst', htu', rfl, fun k => ?font, hprog, fun a ha => ?zero⟩
  case font => exact (hprogFrame (0x050 + k.val) (by omega)).trans (hfont k)
  case zero =>
    have hfontOut : a < 0x050 ∨ 0x0A0 ≤ a := by omega
    have hprogOut : a < 0x200 ∨ 0x200 + bytes.length ≤ a := by omega
    calc _ = State.reset.initFont.memRead a := hprogFrame a hprogOut
      _ = State.reset.memRead a := hfontFrame a hfontOut
      _ = 0 := rfl

end Sys2Proof.Machine
end
